-- ==== Sys2Proof/Word.lean ====
section
/-! DEFINITION. The widths the spec gives values, and nothing else. -/

namespace Sys2Proof

/-- A register, a command word, a strip control word, an address of COEF or OUT (R31, R61, R63, R85). -/
abbrev Word := BitVec 32

/-- One byte of OUT (R63). -/
abbrev Byte := BitVec 8

/-- One coefficient sample of COEF: 16 bits, read as two's complement (R61, R62). -/
abbrev Sample := BitVec 16

/-- The written elements of one row buffer, from index 0 on, as exact integers (R21, R26). -/
abbrev Row := List Int

end Sys2Proof
end

