-- ==== Sys2Proof/Syntax.lean ====
section
/-! DEFINITION. What the block executes: one constructor of Instr per row of spec/opcode_table.json, and the
actions of the host and the platform that reach it from outside. -/

namespace Sys2Proof

/-- The 30 operations (R87, R96). An operand is a field of the strip control word that the operation's rule reads,
beyond the fields its own match fixes and beyond the derived quantities of R18 (assumption 22). -/
inductive Instr where
  /-- NOP, R211. -/
  | nop
  /-- START, R213. -/
  | start
  /-- RESET, R216. -/
  | reset
  /-- SYN.STD, R117; reads DIV2RND. -/
  | synStd (div2rnd : Bool)
  /-- SYN.LIM, R118; reads DIV2RND and LIMBITS. -/
  | synLim (div2rnd : Bool) (limbits : BitVec 4)
  /-- SYN.DSC, R119; reads DSHIFT. -/
  | synDsc (dshift : Bool)
  /-- RSC, R133; reads OUTSIGN. -/
  | rsc (outsign : Bool)
  /-- RSC.D, R136; reads OUTSIGN. -/
  | rscD (outsign : Bool)
  /-- CT.PASS, R148. -/
  | ctPass
  /-- CT.DIFF, R150. -/
  | ctDiff
  /-- CT.MTX.CG601, R155. -/
  | ctMtxCg601
  /-- CT.MTX.VS601, R157. -/
  | ctMtxVs601
  /-- CT.MTX.CG709, R158. -/
  | ctMtxCg709
  /-- CT.MTX.VS709, R159. -/
  | ctMtxVs709
  /-- CT.ALPHA, R160. -/
  | ctAlpha
  /-- SS.PAIR, R172. -/
  | ssPair
  /-- SS.CW, R173. -/
  | ssCw
  /-- PK.YUYV, R180; reads SRC422 (R175). -/
  | pkYuyv (src422 : Bool)
  /-- PK.UYVY, R181; reads SRC422 (R175). -/
  | pkUyvy (src422 : Bool)
  /-- PK.V210, R182; reads SRC422 (R175). -/
  | pkV210 (src422 : Bool)
  /-- PK.V408, R183; reads ALPHA (R177). -/
  | pkV408 (alpha : Bool)
  /-- PK.AYUV, R184; reads ALPHA (R177). -/
  | pkAyuv (alpha : Bool)
  /-- PK.P16, R185; reads ALPHA. -/
  | pkP16 (alpha : Bool)
  /-- PK.RG30, R186. -/
  | pkRg30
  /-- PK.AR10, R187. -/
  | pkAr10
  /-- PK.AB10, R188. -/
  | pkAb10
  /-- PK.R210, R189. -/
  | pkR210
  /-- PK.DPX0, R190. -/
  | pkDpx0
  /-- PK.B64A, R191; reads ALPHA. -/
  | pkB64a (alpha : Bool)
  /-- ADV, R222. -/
  | adv
  deriving DecidableEq, Repr

/-- Where a word is decoded (R85): a word written to CMD, or the strip control word at one stage slot (R95). -/
inductive Site where
  | cmd
  | slot (k : BitVec 3)
  deriving DecidableEq, Repr

/-- The width of a register access. The interface carries words only (R31). -/
inductive Width where
  | byte
  | half
  | word
  deriving DecidableEq, Repr

/-- One action from outside the block, in the order it takes effect (R217, R247; assumptions 1 and 20). -/
inductive Input where
  /-- A register read at a byte offset of REG (R31). -/
  | read (width : Width) (offset : BitVec 8)
  /-- A register write at a byte offset of REG (R31); at CMD it is a command (R34). -/
  | write (width : Width) (offset : BitVec 8) (value : Word)
  /-- The WAIT statement of R106: STATUS is read until STATE is DONE or FAULT. -/
  | wait
  /-- Nothing is done from outside while the orchestrator takes one step (U18). -/
  | run
  /-- The hardware reset input (R270). -/
  | hardReset
  /-- The host, or another agent, puts a sample into COEF (R272 step 1, R274). -/
  | coefWrite (address : Word) (value : Sample)
  /-- The host writes a byte of OUT (R275). -/
  | outWrite (address : Word) (value : Byte)
  /-- The platform from now on answers accesses of these sample and byte addresses with an error (R62, R64, R246). -/
  | busAnswers (coefErrors outErrors : List Nat)
  deriving DecidableEq, Repr

/-- The registers of R32, a channel register under its channel number. -/
inductive Reg where
  | id
  | cmd
  | status
  | fault
  | irqen
  | scw
  | prec
  | roi
  | diffoff
  | alphaDc
  | alphaGain
  | alphaScale
  | outBase
  | outPitch
  | lpBase (ch : Fin 4)
  | hpBase (ch : Fin 4)
  | lpPitch (ch : Fin 4)
  | hpPitch (ch : Fin 4)
  | row
  | outPtr
  | lpPtr (ch : Fin 4)
  | hpPtr (ch : Fin 4)
  deriving DecidableEq, Repr

/-- The twelve formats (R97). -/
inductive Format where
  | yuyv
  | uyvy
  | v210
  | v408
  | ayuv
  | p16
  | rg30
  | ar10
  | ab10
  | r210
  | dpx0
  | b64a
  deriving DecidableEq, Repr

end Sys2Proof
end

