-- ==== Sys2Proof/Decode.lean ====
section
/-! DEFINITION. The two words of the block, command word and strip control word (R85), their fields, the opcode
map (R87, R96), decoding, and the encoder written from the same tables. -/

namespace Sys2Proof

/-! ### Fields of the strip control word (R90) -/

/-- Bit `k` of a word (R15). -/
def wordBit (w : Word) (k : Nat) : Bool := w.getLsbD k

def scwSynmode (w : Word) : BitVec 2 := w.extractLsb' 0 2
def scwDshift (w : Word) : Bool := wordBit w 2
def scwDiv2rnd (w : Word) : Bool := wordBit w 3
def scwLimbits (w : Word) : BitVec 4 := w.extractLsb' 4 4
def scwDither (w : Word) : Bool := wordBit w 8
def scwSrc (w : Word) : Bool := wordBit w 9
def scwSrc422 (w : Word) : Bool := wordBit w 10
def scwAlpha (w : Word) : Bool := wordBit w 11
def scwMatrix (w : Word) : BitVec 2 := w.extractLsb' 12 2
def scwSubsamp (w : Word) : Bool := wordBit w 14
def scwOutsign (w : Word) : Bool := wordBit w 15
def scwFormat (w : Word) : BitVec 8 := w.extractLsb' 16 8
def scwReserved (w : Word) : BitVec 8 := w.extractLsb' 24 8

/-- The format codes of R97; every other code is not a format. -/
def formatOf (code : BitVec 8) : Option Format :=
  match code.toNat with
  | 0x10 => some .yuyv
  | 0x11 => some .uyvy
  | 0x12 => some .v210
  | 0x20 => some .v408
  | 0x21 => some .ayuv
  | 0x50 => some .p16
  | 0x80 => some .rg30
  | 0x81 => some .ar10
  | 0x82 => some .ab10
  | 0x83 => some .r210
  | 0x84 => some .dpx0
  | 0x90 => some .b64a
  | _ => none

/-! ### The opcode map -/

/-- One row of the opcode map: a word at `site` is this operation when `word &&& mask = pattern` (R95), and `build`
reads the operands from it. -/
structure OpRow where
  site    : Site
  mask    : Word
  pattern : Word
  build   : Word → Instr

/-- R87: a command word is compared whole, since "bits 31:8 = reserved, must be 0" (R86). -/
def commandRows : List OpRow :=
  [⟨.cmd, 0xFFFFFFFF, 0x00000000, fun _ => .nop⟩,
   ⟨.cmd, 0xFFFFFFFF, 0x00000001, fun _ => .start⟩,
   ⟨.cmd, 0xFFFFFFFF, 0x00000002, fun _ => .reset⟩]

/-- R96, slots 0 and 1. -/
def filterRows : List OpRow :=
  [⟨.slot 0, 0x00000003, 0x00000000, fun w => .synStd (scwDiv2rnd w)⟩,
   ⟨.slot 0, 0x00000003, 0x00000001, fun w => .synLim (scwDiv2rnd w) (scwLimbits w)⟩,
   ⟨.slot 0, 0x00000003, 0x00000002, fun w => .synDsc (scwDshift w)⟩,
   ⟨.slot 1, 0x00000100, 0x00000000, fun w => .rsc (scwOutsign w)⟩,
   ⟨.slot 1, 0x00000100, 0x00000100, fun w => .rscD (scwOutsign w)⟩]

/-- R96, slots 2, 3 and 4. -/
def colorRows : List OpRow :=
  [⟨.slot 2, 0x00000200, 0x00000000, fun _ => .ctPass⟩,
   ⟨.slot 2, 0x00000200, 0x00000200, fun _ => .ctDiff⟩,
   ⟨.slot 3, 0x00803200, 0x00000200, fun _ => .ctMtxCg601⟩,
   ⟨.slot 3, 0x00803200, 0x00001200, fun _ => .ctMtxVs601⟩,
   ⟨.slot 3, 0x00803200, 0x00002200, fun _ => .ctMtxCg709⟩,
   ⟨.slot 3, 0x00803200, 0x00003200, fun _ => .ctMtxVs709⟩,
   ⟨.slot 4, 0x00000800, 0x00000800, fun _ => .ctAlpha⟩]

/-- R96, slots 5, 6 and 7. -/
def packRows : List OpRow :=
  [⟨.slot 5, 0x00F04400, 0x00100000, fun _ => .ssPair⟩,
   ⟨.slot 5, 0x00F04400, 0x00104000, fun _ => .ssCw⟩,
   ⟨.slot 6, 0x00FF0000, 0x00100000, fun w => .pkYuyv (scwSrc422 w)⟩,
   ⟨.slot 6, 0x00FF0000, 0x00110000, fun w => .pkUyvy (scwSrc422 w)⟩,
   ⟨.slot 6, 0x00FF0000, 0x00120000, fun w => .pkV210 (scwSrc422 w)⟩,
   ⟨.slot 6, 0x00FF0000, 0x00200000, fun w => .pkV408 (scwAlpha w)⟩,
   ⟨.slot 6, 0x00FF0000, 0x00210000, fun w => .pkAyuv (scwAlpha w)⟩,
   ⟨.slot 6, 0x00FF0000, 0x00500000, fun w => .pkP16 (scwAlpha w)⟩,
   ⟨.slot 6, 0x00FF0000, 0x00800000, fun _ => .pkRg30⟩,
   ⟨.slot 6, 0x00FF0000, 0x00810000, fun _ => .pkAr10⟩,
   ⟨.slot 6, 0x00FF0000, 0x00820000, fun _ => .pkAb10⟩,
   ⟨.slot 6, 0x00FF0000, 0x00830000, fun _ => .pkR210⟩,
   ⟨.slot 6, 0x00FF0000, 0x00840000, fun _ => .pkDpx0⟩,
   ⟨.slot 6, 0x00FF0000, 0x00900000, fun w => .pkB64a (scwAlpha w)⟩,
   ⟨.slot 7, 0x00000000, 0x00000000, fun _ => .adv⟩]

/-- The opcode map in the order of spec/opcode_table.json. -/
def opTable : List OpRow := commandRows ++ filterRows ++ colorRows ++ packRows

/-! ### Decoding -/

/-- Why a word is no operation at the place it is decoded. -/
inductive Reject where
  /-- A command word with reserved bits set or OPC ≥ 3 (R104). -/
  | invalidCommand
  /-- No row of R96 with that slot matches: the slot is empty (R95). -/
  | emptySlot
  deriving DecidableEq, Repr

/-- Whether a row is met by a word at a site. -/
def OpRow.hit (r : OpRow) (site : Site) (w : Word) : Bool :=
  decide (r.site = site) && decide (w &&& r.mask = r.pattern)

/-- R87 and R95: "find the row of the table … with that slot whose (SCW & mask) = match". Total on all words. -/
def decode (site : Site) (w : Word) : Except Reject Instr :=
  match opTable.find? (fun r => r.hit site w) with
  | some r => .ok (r.build w)
  | none =>
    match site with
    | .cmd => .error .invalidCommand
    | .slot _ => .error .emptySlot

/-- Whether a slot is filled under a strip control word (R95). -/
def slotFilled (scw : Word) (k : BitVec 3) : Bool :=
  match decode (.slot k) scw with
  | .ok _ => true
  | .error _ => false

/-- The stage slots in order (R95). -/
def allSlots : List (BitVec 3) := [0, 1, 2, 3, 4, 5, 6, 7]

/-- "the smallest filled slot greater than STAGE" (R226). Slot 7 is always filled; for STAGE = 7, whose operation
sets STAGE itself, the search is empty and the answer is 7. -/
def nextSlot (scw : Word) (stage : BitVec 3) : BitVec 3 :=
  (allSlots.find? (fun k => decide (stage < k) && slotFilled scw k)).getD 7

/-- The operations that fill the slots of a strip control word, in slot order (R106). -/
def disassemble (scw : Word) : List Instr :=
  allSlots.filterMap (fun k => (decode (.slot k) scw).toOption)

/-! ### Encoding -/

/-- Where an operation is encoded: CMD or its stage slot (R87, R96). -/
def siteOf : Instr → Site
  | .nop | .start | .reset => .cmd
  | .synStd _ | .synLim _ _ | .synDsc _ => .slot 0
  | .rsc _ | .rscD _ => .slot 1
  | .ctPass | .ctDiff => .slot 2
  | .ctMtxCg601 | .ctMtxVs601 | .ctMtxCg709 | .ctMtxVs709 => .slot 3
  | .ctAlpha => .slot 4
  | .ssPair | .ssCw => .slot 5
  | .pkYuyv _ | .pkUyvy _ | .pkV210 _ | .pkV408 _ | .pkAyuv _ | .pkP16 _ => .slot 6
  | .pkRg30 | .pkAr10 | .pkAb10 | .pkR210 | .pkDpx0 | .pkB64a _ => .slot 6
  | .adv => .slot 7

/-- A one-bit field at bit `k` (R15, R90). -/
def bitAt (b : Bool) (k : Nat) : Word := if b then (1 : Word) <<< k else 0

/-- The bits of the word an operation owns: those its match fixes and those of its operands (R90, R96). -/
def encodeMask : Instr → Word
  | .nop | .start | .reset => 0xFFFFFFFF
  | .synStd _ => 0x0000000B
  | .synLim _ _ => 0x000000FB
  | .synDsc _ => 0x00000007
  | .rsc _ | .rscD _ => 0x00008100
  | .ctPass | .ctDiff => 0x00000200
  | .ctMtxCg601 | .ctMtxVs601 | .ctMtxCg709 | .ctMtxVs709 => 0x00803200
  | .ctAlpha => 0x00000800
  | .ssPair | .ssCw => 0x00F04400
  | .pkYuyv _ | .pkUyvy _ | .pkV210 _ => 0x00FF0400
  | .pkV408 _ | .pkAyuv _ | .pkP16 _ | .pkB64a _ => 0x00FF0800
  | .pkRg30 | .pkAr10 | .pkAb10 | .pkR210 | .pkDpx0 => 0x00FF0000
  | .adv => 0x00000000

/-- The values of those bits (R87, R90, R96, R97). -/
def encodeBits : Instr → Word
  | .nop => 0x00000000
  | .start => 0x00000001
  | .reset => 0x00000002
  | .synStd div2rnd => 0x00000000 ||| bitAt div2rnd 3
  | .synLim div2rnd limbits => 0x00000001 ||| bitAt div2rnd 3 ||| (limbits.setWidth 32 <<< 4)
  | .synDsc dshift => 0x00000002 ||| bitAt dshift 2
  | .rsc outsign => 0x00000000 ||| bitAt outsign 15
  | .rscD outsign => 0x00000100 ||| bitAt outsign 15
  | .ctPass => 0x00000000
  | .ctDiff => 0x00000200
  | .ctMtxCg601 => 0x00000200
  | .ctMtxVs601 => 0x00001200
  | .ctMtxCg709 => 0x00002200
  | .ctMtxVs709 => 0x00003200
  | .ctAlpha => 0x00000800
  | .ssPair => 0x00100000
  | .ssCw => 0x00104000
  | .pkYuyv src422 => 0x00100000 ||| bitAt src422 10
  | .pkUyvy src422 => 0x00110000 ||| bitAt src422 10
  | .pkV210 src422 => 0x00120000 ||| bitAt src422 10
  | .pkV408 alpha => 0x00200000 ||| bitAt alpha 11
  | .pkAyuv alpha => 0x00210000 ||| bitAt alpha 11
  | .pkP16 alpha => 0x00500000 ||| bitAt alpha 11
  | .pkRg30 => 0x00800000
  | .pkAr10 => 0x00810000
  | .pkAb10 => 0x00820000
  | .pkR210 => 0x00830000
  | .pkDpx0 => 0x00840000
  | .pkB64a alpha => 0x00900000 ||| bitAt alpha 11
  | .adv => 0x00000000

/-- The word `w` with operation `i` put into it: its own bits set, every other bit kept. A strip control word
carries one operation per slot, so an operation is encoded into a word, not alone. -/
def encodeInto (i : Instr) (w : Word) : Word := (w &&& ~~~ encodeMask i) ||| encodeBits i

/-- The word of an operation alone: every bit that is not its own is 0. -/
def encode (i : Instr) : Word := encodeInto i 0

/-- A strip control word from the operations of its slots (R107). -/
def assemble (ops : List Instr) : Word := ops.foldr encodeInto 0

/-! ### Words of the opcode table without their place -/

/-- How many bits a row's fixed bits take, in whole bytes. -/
def OpRow.bits (r : OpRow) : Nat := if r.mask = 0 then 0 else (r.mask.toNat.log2 / 8 + 1) * 8

/-- Where a word of the opcode table stands. The table has rows of one word under several places (0 is NOP at CMD and
SYN.STD, RSC, CT.PASS and ADV at their slots), so a word alone does not name its row. DESIGN CHOICE: of the rows the
word meets, the ones whose own pattern is the whole word come first, among them those of that many bits, and then the
table's order decides (assumption 2). -/
def tableSite (nbits w : Nat) : Option Site :=
  if w < 2 ^ 32 then
    let met := opTable.filter (fun r => r.hit r.site (BitVec.ofNat 32 w))
    let whole := met.filter (fun r => decide (r.pattern = BitVec.ofNat 32 w))
    let ranked := whole.filter (fun r => r.bits == nbits) ++ whole ++ met.filter (fun r => r.bits == nbits) ++ met
    ranked.head?.map OpRow.site
  else none

/-- The instruction the decoder reads from a word of the opcode table, at the place `tableSite` gives it. -/
def decodeTableWord (nbits w : Nat) : Option Instr :=
  match tableSite nbits w with
  | some site => (decode site (BitVec.ofNat 32 w)).toOption
  | none => none

end Sys2Proof
end

