-- ==== Sys2Proof/Config.lean ====
section
/-! DEFINITION. What an implementation fixes (the parameters of R8) and the free values the spec leaves open. -/

namespace Sys2Proof.Config

/-- One row of a colour matrix: three signed coefficients, each meaning m / 256, and an offset at 8-bit scale (R154). -/
structure MatrixRow where
  m0 : Int
  m1 : Int
  m2 : Int
  o  : Nat
  deriving DecidableEq, Repr

/-- One 3x4 matrix: the rows of Y, U and V (R154). -/
structure Matrix where
  y : MatrixRow
  u : MatrixRow
  v : MatrixRow
  deriving DecidableEq, Repr

/-- MATRIX_ROM: the four sets, "exactly these four named matrix sets" (R153, R154). -/
structure MatrixRom where
  cg601 : Matrix
  vs601 : Matrix
  cg709 : Matrix
  vs709 : Matrix
  deriving DecidableEq, Repr

/-- The parameters of R8 whose value the block's behaviour depends on. The model takes them as an argument: they are
plain data in State, which no step writes (assumption 3). DIV2RND, SUBSAMP, DIFFOFF and the alpha constants are
registers the host writes, so their R8 entries need no field here. -/
structure Params where
  /-- MAX_N: the largest coefficient count per row, 3 ≤ MAX_N ≤ 65535. -/
  maxN : Nat
  /-- MATRIX_ROM. -/
  matrixRom : MatrixRom
  /-- BUS_ERRORS: whether the platform's memory can answer an access with an error (R246). -/
  busErrors : Bool
  deriving DecidableEq, Repr

/-- The default MATRIX_ROM of R156. UNVERIFIED: the spec marks its numbers as general knowledge (G1, assumption 21). -/
def defaultMatrixRom : MatrixRom where
  cg601 := ⟨⟨66, 129, 25, 16⟩, ⟨-38, -74, 112, 128⟩, ⟨112, -94, -18, 128⟩⟩
  vs601 := ⟨⟨77, 150, 29, 0⟩, ⟨-44, -87, 131, 128⟩, ⟨131, -110, -21, 128⟩⟩
  cg709 := ⟨⟨47, 157, 16, 16⟩, ⟨-26, -86, 112, 128⟩, ⟨112, -102, -10, 128⟩⟩
  vs709 := ⟨⟨54, 183, 19, 0⟩, ⟨-30, -101, 131, 128⟩, ⟨131, -119, -12, 128⟩⟩

/-- The defaults of R8. DESIGN CHOICE, unsafe: State.reset carries them, every statement over all states does not
rest on them (assumption 3). -/
def defaultParams : Params where
  maxN := 8192
  matrixRom := defaultMatrixRom
  busErrors := false

/-- ID_VALUE (R8, R33): decided by the spec, not a parameter. -/
def idValue : Word := 0x49485350

/-- What an address that a memory does not list reads as. DESIGN CHOICE, unsafe: the spec gives COEF and OUT no
contents of their own (assumption 6). -/
def unlisted {n : Nat} : BitVec n := 0

/-- The dither term before it is brought into its range: free value of the use `event`, the channel and the
element (R17, R136, U1; assumption 7). It has no body: nothing can be proved of its values. -/
opaque ditherDraw (event channel element : Nat) : Nat

/-- Whether a byte of a PK row that failed or was cut short has reached OUT: free value of the use `event` and the
byte's index (U7, R216, R248; assumption 8). -/
opaque byteLanded (event index : Nat) : Bool

/-- Which of several failing accesses of one operation CV_BUS reports: free value of the use `event` (U15, R246;
assumption 9). -/
opaque busReport (event : Nat) : Nat

/-- Which of the values that a coefficient sample written while BUSY has had one read of it returns: free value of the
use `event`, the channel, the buffer (highpass or lowpass), the output element and the coefficient, so that every read
chooses for itself (R78, R274, U9; assumption 11). -/
opaque coefficientRead (event channel : Nat) (high : Bool) (element coefficient : Nat) : Nat

/-- The content of a byte of OUT that the host and the block both write: free value of the use `event` and the byte's
index (R275; assumption 12). -/
opaque sharedByte (event index : Nat) : Byte

end Sys2Proof.Config
end

