-- ==== Sys2Proof/Machine/Arith.lean ====
section
/-! DEFINITION. The arithmetic of R10 to R16 and of the stages, on mathematical integers, and the byte orders. -/

namespace Sys2Proof.Machine

/-! ### Shifts and clamps (R11 to R14) -/

/-- `x >> k` is "floor(x / 2^k)" (R11); Lean's integer division by a positive number is the floor. -/
def asr (x : Int) (k : Nat) : Int := x / 2 ^ k

/-- `x << k` is "x * 2^k" (R11). -/
def shl (x : Int) (k : Nat) : Int := x * 2 ^ k

/-- R12: the bias is +4 for every sign. -/
def rd8 (x : Int) : Int := asr (x + 4) 3

/-- R13: the final halving, plain or rounded. -/
def d2 (x : Int) (rounded : Bool) : Int := if rounded then asr (x + 1) 1 else asr x 1

/-- R14. -/
def clamp (x lo hi : Int) : Int := if x < lo then lo else if hi < x then hi else x

/-- R14. -/
def clamp16 (x : Int) : Int := clamp x (-32768) 32767

/-- R14. -/
def clampu (x : Int) (b : Nat) : Int := clamp x 0 (2 ^ b - 1)

/-- R14. For b = 0, which no run reaches, the bound 2^(b-1) is taken as 1. -/
def clamps (x : Int) (b : Nat) : Int := clamp x (-(2 ^ (b - 1))) (2 ^ (b - 1) - 1)

/-! ### Synthesis (R113 to R119) -/

/-- E(c) for `n` coefficients: R114 at c = 0, R115 at c = n-1, R113 between. -/
def preEven (lp hp : Nat → Int) (n c : Nat) : Int :=
  if c = 0 then rd8 (11 * lp 0 - 4 * lp 1 + 1 * lp 2) + hp 0
  else if c + 1 = n then rd8 (5 * lp (n - 1) + 4 * lp (n - 2) - 1 * lp (n - 3)) + hp (n - 1)
  else rd8 (lp (c - 1) - lp (c + 1)) + lp c + hp c

/-- O(c) for `n` coefficients. -/
def preOdd (lp hp : Nat → Int) (n c : Nat) : Int :=
  if c = 0 then rd8 (5 * lp 0 + 4 * lp 1 - 1 * lp 2) - hp 0
  else if c + 1 = n then rd8 (11 * lp (n - 1) - 4 * lp (n - 2) + 1 * lp (n - 3)) - hp (n - 1)
  else rd8 (lp (c + 1) - lp (c - 1)) + lp c - hp c

/-- The pre-halving sum of output index i: E(i / 2) at even i, O(i / 2) at odd i (R110). -/
def preSum (lp hp : Nat → Int) (n i : Nat) : Int :=
  if i % 2 = 0 then preEven lp hp n (i / 2) else preOdd lp hp n (i / 2)

/-- SYN.STD of one pre-halving sum (R117, with the clamp of R116). -/
def finishStd (rounded : Bool) (x : Int) : Int := d2 (clamp16 x) rounded

/-- SYN.LIM of one pre-halving sum (R118). -/
def finishLim (rounded : Bool) (bits : Nat) (x : Int) : Int := clampu (d2 (clamp16 x) rounded) bits

/-- SYN.DSC of one pre-halving sum (R119). -/
def finishDsc (shift : Bool) (x : Int) : Int := clamp16 (shl (clamp16 x) (if shift then 1 else 0))

/-! ### Rescaling (R132 to R136) -/

/-- `sat(t)`, R132. -/
def saturate (signed : Bool) (pOut : Nat) (t : Int) : Int := if signed then clamps t pOut else clampu t pOut

/-- The shift of R133 before `sat`: right by P_INT - P_OUT, or left by P_OUT - P_INT. -/
def rescaleShift (pInt pOut : Nat) (v : Int) : Int :=
  if pOut < pInt then asr v (pInt - pOut) else if pInt < pOut then shl v (pOut - pInt) else v

/-- RSC of one element (R133). -/
def rescale (signed : Bool) (pInt pOut : Nat) (v : Int) : Int := saturate signed pOut (rescaleShift pInt pOut v)

/-- RSC.D of one element with the dither term `r` of R136, used when the shift is at least 2. -/
def rescaleDithered (signed : Bool) (pInt pOut : Nat) (r : Nat) (v : Int) : Int :=
  if pOut + 2 ≤ pInt then saturate signed pOut (asr (v + r) (pInt - pOut)) else rescale signed pInt pOut v

/-- `draw(0, 2^(s-1) - 1)` (R17, R136): the free value brought into the range, every value of which it can be. -/
def ditherTerm (event channel element shift : Nat) : Nat :=
  Config.ditherDraw event channel element % 2 ^ (shift - 1)

/-! ### Colour (R150, R154, R160) -/

/-- R and B of R150 from a difference channel and G. -/
def diffComponent (w : Nat) (offset : Nat) (d g : Int) : Int := clampu (2 * d + g - offset) w

/-- One output of `mtx`, R154. -/
def mtxRow (m : Config.MatrixRow) (w : Nat) (r g b : Int) : Int :=
  clampu (asr (m.m0 * r + m.m1 * g + m.m2 * b + 128) 8 + shl m.o (w - 8)) w

/-- AR[i] of R160. -/
def decompand (w dc gain scale : Nat) (a : Int) : Int := clampu (asr ((a - dc) * gain) scale) w

/-! ### Subsampling (R172, R173) -/

/-- R172. -/
def pairAverage (u0 u1 : Int) : Int := asr (u0 + u1) 1

/-- R173. -/
def centreAverage (prev u0 u1 : Int) : Int := asr (prev + 2 * u0 + u1) 2

/-! ### Packing (R16, R178, R179) -/

/-- A component as one byte: R192 says that it fits in every run; outside a run the low bits are taken
(assumption 16). -/
def byteOf (v : Int) : Byte := BitVec.ofInt 8 v

/-- R16. -/
def le16 (w : BitVec 16) : List Byte := [w.extractLsb' 0 8, w.extractLsb' 8 8]

/-- R16. -/
def be16 (w : BitVec 16) : List Byte := [w.extractLsb' 8 8, w.extractLsb' 0 8]

/-- R16. -/
def le32 (w : Word) : List Byte := [w.extractLsb' 0 8, w.extractLsb' 8 8, w.extractLsb' 16 8, w.extractLsb' 24 8]

/-- R16: "the same list reversed". -/
def be32 (w : Word) : List Byte := (le32 w).reverse

/-- R179: `a | (b << 10) | (c << 20)`. -/
def w10 (a b c : Int) : Word := BitVec.ofInt 32 a ||| (BitVec.ofInt 32 b <<< 10) ||| (BitVec.ofInt 32 c <<< 20)

/-- R178: `v << (16 - W)`, taken modulo 2^16. -/
def up16 (w : Nat) (v : Int) : BitVec 16 := BitVec.ofInt 16 (shl v (16 - w))

end Sys2Proof.Machine
end

