-- ==== Sys2Proof/Machine/State.lean ====
section
/-! DEFINITION. The state of one instance (R20) with the two memories beside it, the reasons a step can stop, and the
state after reset (R56, R57). -/

namespace Sys2Proof.Machine

/-- STATE, R27. -/
inductive Phase where
  | idle
  | busy
  | done
  | fault
  deriving DecidableEq, Repr

/-- Four things of one kind, one per channel 0..3 (R19, R47, R48, R51, R22, R23). -/
structure Quad (α : Type) where
  c0 : α
  c1 : α
  c2 : α
  c3 : α
  deriving DecidableEq, Repr

/-- The entry of a channel. -/
def Quad.get {α : Type} (q : Quad α) : Fin 4 → α
  | 0 => q.c0
  | 1 => q.c1
  | 2 => q.c2
  | 3 => q.c3

/-- The four entries from a function of the channel. -/
def Quad.build {α : Type} (f : Fin 4 → α) : Quad α := ⟨f 0, f 1, f 2, f 3⟩

/-- Replaces the entry of one channel. -/
def Quad.set {α : Type} (q : Quad α) (ch : Fin 4) (x : α) : Quad α :=
  .build fun i => if i = ch then x else q.get i

/-- The rows CR[0], CR[1], CR[2] (R24): Y, U, V or R, G, B (R146). -/
structure Components where
  k0 : Row
  k1 : Row
  k2 : Row
  deriving DecidableEq, Repr

/-- The rows SR[1], SR[2] (R25). -/
structure HalfChroma where
  k1 : Row
  k2 : Row
  deriving DecidableEq, Repr

/-- The FAULT register's fields (R36); bits 15:12 of its word read 0. CODE = 0: no fault recorded. -/
structure FaultRecord where
  code : BitVec 8
  ch   : BitVec 2
  buf  : BitVec 2
  row  : BitVec 16
  deriving DecidableEq, Repr

/-- A memory of `n`-bit units as pairs of address and value: addresses rising, below 2^32, no value equal to what an
unlisted address reads as. -/
abbrev Memory (n : Nat) := List (Nat × BitVec n)

/-- Which addresses of COEF and OUT the platform at present answers with an error (R62, R64; assumption 10). -/
structure Bus where
  coefErrors : List Nat
  outErrors  : List Nat
  deriving DecidableEq, Repr

/-- The machine. Fields down to `ar` are R20's (a) to (f); `coef` and `out` are the memories outside the block (R61,
R63); the rest is the model's own (assumptions 1, 3, 7, 10, 11, 12, 23). -/
structure State where
  /-- STATE, R27. -/
  phase : Phase
  /-- ROW, R27. -/
  row : BitVec 16
  /-- STAGE, R27. -/
  stage : BitVec 3
  /-- STATUS.WRERR, R30. -/
  wrerr : Bool
  /-- FAULT, R36. -/
  faultRec : FaultRecord
  /-- IRQEN, R37. -/
  irqen : Word
  /-- SCW, R38. -/
  scw : Word
  /-- PREC, R39. -/
  prec : Word
  /-- ROI, R40. -/
  roi : Word
  /-- DIFFOFF, R41. -/
  diffoff : Word
  /-- ALPHA_DC, R42. -/
  alphaDc : Word
  /-- ALPHA_GAIN, R43. -/
  alphaGain : Word
  /-- ALPHA_SCALE, R44. -/
  alphaScale : Word
  /-- OUT_BASE, R45. -/
  outBase : Word
  /-- OUT_PITCH, R45. -/
  outPitch : Word
  /-- LP_BASE, R47. -/
  lpBase : Quad Word
  /-- HP_BASE, R47. -/
  hpBase : Quad Word
  /-- LP_PITCH, R48. -/
  lpPitch : Quad Word
  /-- HP_PITCH, R48. -/
  hpPitch : Quad Word
  /-- OUT_PTR, R50. -/
  outPtr : Word
  /-- LP_PTR, R51. -/
  lpPtr : Quad Word
  /-- HP_PTR, R51. -/
  hpPtr : Quad Word
  /-- RR, R22: the elements that hold a value (R26, assumption 4). -/
  rr : Quad Row
  /-- WR, R23. -/
  wr : Quad Row
  /-- CR, R24. -/
  cr : Components
  /-- SR, R25. -/
  sr : HalfChroma
  /-- AR, R25. -/
  ar : Row
  /-- COEF, R61. -/
  coef : Memory 16
  /-- OUT, R63. -/
  out : Memory 8
  /-- The platform's present error answers (assumption 10). -/
  bus : Bus
  /-- The actions still to come from outside, the next one first (assumptions 1 and 20). -/
  inputs : List Input
  /-- The word the REG interface returned last (assumption 23). -/
  rdata : Word
  /-- The samples of COEF written from outside while BUSY, each with the value it had before that write, the latest
  write first (R78, U9, assumption 11). -/
  overwritten : List (Nat × Sample)
  /-- The addresses of the bytes of OUT the host has written while BUSY (R275, assumption 12). -/
  hostOut : List Nat
  /-- How many uses of free values there may have been (assumption 7). -/
  freeCount : Nat
  /-- The parameters of R8 (assumption 3). -/
  params : Config.Params
  deriving DecidableEq, Repr

/-- The reasons the model stops with a fault. The block's own faults are states, not these (R248). -/
inductive Fault where
  /-- Raised by a stage operation that reads a row-buffer element no operation has written: R26, "should treat a read
  of an unwritten element as a fault of the model, not as zero". Safe: the model stops. No run reaches it. -/
  | unwrittenElement
  /-- Raised by SYN.STD, SYN.LIM and SYN.DSC on a channel of one or two coefficients, for which R113 to R115 name
  coefficients that do not exist (R124: "n < 3 never reaches a SYN operation"). Safe: the model stops. No run
  reaches it. -/
  | narrowRow
  deriving DecidableEq, Repr

/-- The reasons the model gives no meaning. -/
inductive Refusal where
  /-- An instruction without a meaning yet, by its mnemonic; no instruction of this model is left so. Safe. -/
  | notModelled (mnemonic : String)
  /-- A register access that is not a whole aligned word (R31 "a model refuses them", U28). Safe. -/
  | registerAccess
  deriving DecidableEq, Repr

/-- The three outcomes of a step over this machine. -/
abbrev Outcome := Host.Outcome State Fault Refusal

/-- No fault recorded (R36, R56). -/
def noFault : FaultRecord := ⟨0, 0, 0, 0⟩

/-- No element of any row buffer holds a value (R26, R57). -/
def noRows : Quad Row := ⟨[], [], [], []⟩

/-- The machine after a hardware reset at power-on: the table of R56; row buffers without values (R26, R57); memories
with nothing listed (assumption 6); the parameters' defaults (assumption 3); nothing pending from outside. -/
def State.reset : State where
  phase := .idle
  row := 0
  stage := 0
  wrerr := false
  faultRec := noFault
  irqen := 0
  scw := 0
  prec := 0
  roi := 0
  diffoff := 0
  alphaDc := 0
  alphaGain := 0
  alphaScale := 0
  outBase := 0
  outPitch := 0
  lpBase := ⟨0, 0, 0, 0⟩
  hpBase := ⟨0, 0, 0, 0⟩
  lpPitch := ⟨0, 0, 0, 0⟩
  hpPitch := ⟨0, 0, 0, 0⟩
  outPtr := 0
  lpPtr := ⟨0, 0, 0, 0⟩
  hpPtr := ⟨0, 0, 0, 0⟩
  rr := noRows
  wr := noRows
  cr := ⟨[], [], []⟩
  sr := ⟨[], []⟩
  ar := []
  coef := []
  out := []
  bus := ⟨[], []⟩
  inputs := []
  rdata := 0
  overwritten := []
  hostOut := []
  freeCount := 0
  params := Config.defaultParams

end Sys2Proof.Machine
end

