-- ==== Sys2Proof/Machine/Operands.lean ====
section
/-! DEFINITION. What the operations read: the derived quantities of R18, the format's properties (R97 to R101), the
row-buffer elements and the register values used at face value (R103). -/

namespace Sys2Proof.Machine

/-! ### Derived quantities (R18), functions of the descriptor registers -/

/-- `N = ROI.N` (R40). -/
def coefCount (s : State) : Nat := (s.roi.extractLsb' 0 16).toNat

/-- `H = ROI.HEIGHT` (R40). -/
def height (s : State) : BitVec 16 := s.roi.extractLsb' 16 16

/-- `NCH = 3 + SCW.ALPHA`. -/
def channelCount (s : State) : Nat := if scwAlpha s.scw then 4 else 3

/-- Channel `ch` is in use: ch < NCH. -/
def inUse (s : State) (ch : Fin 4) : Bool := decide (ch.val < channelCount s)

/-- `Nc(ch)`: N / 2 for the chroma channels of a half-rate source, else N. -/
def chanCount (s : State) (ch : Fin 4) : Nat :=
  if scwSrc422 s.scw && (decide (ch = 1) || decide (ch = 2)) then coefCount s / 2 else coefCount s

/-- `Wd = 2 * N`. -/
def rowWidth (s : State) : Nat := 2 * coefCount s

/-- `P_INT` (R39). -/
def pInt (s : State) : Nat := (s.prec.extractLsb' 0 5).toNat

/-- `P_OUT` (R39), which is also the working precision W (R147). -/
def pOut (s : State) : Nat := (s.prec.extractLsb' 8 5).toNat

/-- `FMT = SCW.FORMAT` (R97). -/
def format (s : State) : Option Format := formatOf (scwFormat s.scw)

/-- DIFFOFF bits 17:0 (R41). -/
def diffOffset (s : State) : Nat := (s.diffoff.extractLsb' 0 18).toNat

/-- ALPHA_DC bits 15:0 (R42). -/
def alphaDcValue (s : State) : Nat := (s.alphaDc.extractLsb' 0 16).toNat

/-- ALPHA_GAIN bits 15:0 (R43). -/
def alphaGainValue (s : State) : Nat := (s.alphaGain.extractLsb' 0 16).toNat

/-- ALPHA_SCALE bits 4:0 (R44). -/
def alphaScaleValue (s : State) : Nat := (s.alphaScale.extractLsb' 0 5).toNat

/-! ### Properties of a format (R97 to R101) -/

/-- `class(FMT) = RGB`: FORMAT bit 7 (R98). -/
def scwIsRgb (scw : Word) : Bool := wordBit scw 23

/-- `is422(FMT)`: FORMAT bits 7:4 = 1 (R98). -/
def scwIs422 (scw : Word) : Bool := decide (scw.extractLsb' 20 4 = 1)

/-- The legal P_OUT values of R97, R101. -/
def depthLegal : Format → Nat → Bool
  | .yuyv, p | .uyvy, p | .v408, p | .ayuv, p => p == 8
  | .v210, p | .rg30, p | .ar10, p | .ab10, p | .r210, p | .dpx0, p => p == 10
  | .p16, p | .b64a, p => p == 8 || p == 10 || p == 16

/-- The width alignment of R100: V210 "needs Wd to be a multiple of 6, that is N a multiple of 3". -/
def widthAligned : Format → Nat → Bool
  | .v210, n => n % 3 == 0
  | _, _ => true

/-- `ROWBYTES`, R99. -/
def rowBytes (f : Format) (s : State) : Nat :=
  match f with
  | .yuyv | .uyvy => 2 * rowWidth s
  | .v210 => rowWidth s / 6 * 16
  | .v408 | .ayuv => 4 * rowWidth s
  | .rg30 | .ar10 | .ab10 | .r210 | .dpx0 => 4 * rowWidth s
  | .b64a => 8 * rowWidth s
  | .p16 => 2 * (rowWidth s + 2 * (2 * chanCount s 1) + (if scwAlpha s.scw then rowWidth s else 0))

/-! ### Row-buffer elements (R21 to R26) -/

/-- Elements 0..n-1 of a row hold a value. -/
def written (row : Row) (n : Nat) : Bool := decide (n ≤ row.length)

/-- Element `i` of a row that has one; every use stands behind a `written` check. -/
def elem (row : Row) (i : Nat) : Int := row.getD i 0

/-- The row whose element i is `f i`, for i in 0..n-1. -/
def rowFrom (n : Nat) (f : Nat → Int) : Row := (List.range n).map f

/-- A value computed from row elements: the model's fault when one of them was never written (R26). -/
def needRows {α : Type} (ok : Bool) (x : α) : Except Fault α := if ok then .ok x else .error .unwrittenElement

/-- Elements 0..2*Nc(ch)-1 of every channel in use hold a value. -/
def channelsWritten (s : State) (rows : Quad Row) : Bool :=
  [0, 1, 2, 3].all fun ch => !inUse s ch || written (rows.get ch) (2 * chanCount s ch)

/-- R175: the half-rate chroma rows of the 4:2:2 packers, SR when an SS operation ran, CR when the source is half
rate. -/
def chromaU (src422 : Bool) (s : State) : Row := if src422 then s.cr.k1 else s.sr.k1

/-- R175. -/
def chromaV (src422 : Bool) (s : State) : Row := if src422 then s.cr.k2 else s.sr.k2

/-- `Av[i]`, R177: AR[i], or the largest value when there is no alpha channel. -/
def alphaAt (alpha : Bool) (s : State) (i : Nat) : Int := if alpha then elem s.ar i else 2 ^ pOut s - 1

/-- AR holds the elements `alphaAt` reads. -/
def alphaWritten (alpha : Bool) (s : State) : Bool := !alpha || written s.ar (rowWidth s)

end Sys2Proof.Machine
end

