-- ==== Sys2Proof/Machine/Ops.lean ====
section
/-! DEFINITION. The named operations: the two memories, coefficient reads and output writes with their bus errors,
fault entry, and the return to the reset state. -/

namespace Sys2Proof.Machine

/-! ### Memory in its one canonical form -/

/-- The unit at an address. -/
def Memory.read {n : Nat} : Memory n → Nat → BitVec n
  | [], _ => Config.unlisted
  | (b, v) :: rest, a => if b = a then v else Memory.read rest a

/-- Lists a unit at its place in the rising order, over an entry of the same address. -/
def Memory.insert {n : Nat} : Memory n → Nat → BitVec n → Memory n
  | [], a, v => [(a, v)]
  | (b, x) :: rest, a, v =>
    if a < b then (a, v) :: (b, x) :: rest
    else if a = b then (a, v) :: rest
    else (b, x) :: Memory.insert rest a v

/-- Stores a unit and keeps the form: a value that an unlisted address reads as is not listed. -/
def Memory.write {n : Nat} (m : Memory n) (a : Nat) (v : BitVec n) : Memory n :=
  if v = Config.unlisted then m.filter (fun e => decide (e.1 ≠ a)) else Memory.insert m a v

/-- The form from address `lo` on. -/
def Memory.wfFrom {n : Nat} : Nat → Memory n → Bool
  | _, [] => true
  | lo, (a, v) :: rest => decide (lo ≤ a) && decide (a < 2 ^ 32) && decide (v ≠ Config.unlisted) && Memory.wfFrom (a + 1) rest

/-- The canonical form: addresses strictly rising and below 2^32 (R61, R63), no entry equal to what an unlisted
address reads as. -/
def Memory.wf {n : Nat} (m : Memory n) : Bool := Memory.wfFrom 0 m

/-! ### COEF (R62, R72, R78) -/

/-- The byte of OUT at an address. -/
def outByte (s : State) (a : Word) : Byte := s.out.read a.toNat

/-- `MemRead(COEF, a)` when the access is answered: the sample as an integer (R62). -/
def coefSample (s : State) (a : Word) : Int := (s.coef.read a.toNat).toInt

/-- `lp[c]` of a channel: the sample at LP_PTR[ch] + c modulo 2^32 (R66, R111). -/
def lowpass (s : State) (ch : Fin 4) (c : Nat) : Int := coefSample s (s.lpPtr.get ch + BitVec.ofNat 32 c)

/-- `hp[c]` of a channel (R66, R111). -/
def highpass (s : State) (ch : Fin 4) (c : Nat) : Int := coefSample s (s.hpPtr.get ch + BitVec.ofNat 32 c)

/-- The values a sample had before the writes made to it while BUSY, the latest first. -/
def earlierSamples (s : State) (a : Word) : List Int :=
  (s.overwritten.filter fun e => decide (e.1 = a.toNat)).map fun e => e.2.toInt

/-- Every value a read of a sample by the block may return: its present value, and those it had before writes made
while BUSY (R78: "its old or its new value, per read"; U9). -/
def heldSamples (s : State) (a : Word) : List Int := coefSample s a :: earlierSamples s a

/-- One read of a sample by the block: one of the values it may return, which one `draw` chooses (U9, assumption 11). -/
def readCoef (s : State) (draw : Nat) (a : Word) : Int :=
  match earlierSamples s a with
  | [] => coefSample s a
  | earlier => (coefSample s a :: earlier).getD (draw % (earlier.length + 1)) 0

/-- The read of `lp[c]` of a channel for output element `i` (R72). -/
def readLow (s : State) (ch : Fin 4) (i c : Nat) : Int :=
  readCoef s (Config.coefficientRead s.freeCount ch.val false i c) (s.lpPtr.get ch + BitVec.ofNat 32 c)

/-- The read of `hp[c]` of a channel for output element `i` (R72). -/
def readHigh (s : State) (ch : Fin 4) (i c : Nat) : Int :=
  readCoef s (Config.coefficientRead s.freeCount ch.val true i c) (s.hpPtr.get ch + BitVec.ofNat 32 c)

/-- The platform answers a read of this sample with an error (R62, R246). -/
def coefFails (s : State) (a : Word) : Bool := s.params.busErrors && s.bus.coefErrors.contains a.toNat

/-- The platform answers a write of this byte with an error (R64, R246). -/
def outFails (s : State) (a : Word) : Bool := s.params.busErrors && s.bus.outErrors.contains a.toNat

/-- FAULT.BUF: 1 lowpass, 2 highpass, 3 output (R36). -/
def bufLow : BitVec 2 := 1
def bufHigh : BitVec 2 := 2
def bufOut : BitVec 2 := 3

/-- The failing reads of a SYN operation as (CH, BUF), one entry per failing sample (R72, R246). -/
def failingReads (s : State) : List (BitVec 2 × BitVec 2) :=
  ([0, 1, 2, 3].filter fun ch => inUse s ch).flatMap fun ch =>
    (List.range (chanCount s ch)).flatMap fun c =>
      (if coefFails s (s.lpPtr.get ch + BitVec.ofNat 32 c) then [(BitVec.ofFin ch, bufLow)] else []) ++
        (if coefFails s (s.hpPtr.get ch + BitVec.ofNat 32 c) then [(BitVec.ofFin ch, bufHigh)] else [])

/-! ### OUT (R64) -/

/-- Stores those bytes of a list that `keep` chooses by their index, the first at address `a`, addresses modulo
2^32. -/
def writeChosen (keep : Nat → Bool) : Nat → Memory 8 → Word → List Byte → Memory 8
  | _, m, _, [] => m
  | k, m, a, b :: rest =>
    writeChosen keep (k + 1) (if keep k then m.write a.toNat b else m) (a + 1) rest

/-- Some byte of a row of `n` bytes at OUT_PTR is answered with an error. -/
def anyWriteFails (s : State) (n : Nat) : Bool :=
  (List.range n).any fun k => outFails s (s.outPtr + BitVec.ofNat 32 k)

/-! ### Faults of the block (R241, R248) -/

/-- The nine codes of R241. -/
inductive FaultCode where
  | cvCmd
  | cvFormat
  | cvRoi
  | cvField
  | cvShape
  | cvAlign
  | cvPitch
  | cvBus
  | pmDepth
  deriving DecidableEq, Repr

/-- FAULT.CODE of R241. -/
def faultByte : FaultCode → BitVec 8
  | .cvCmd => 0x10
  | .cvFormat => 0x11
  | .cvRoi => 0x12
  | .cvField => 0x13
  | .cvShape => 0x14
  | .cvAlign => 0x15
  | .cvPitch => 0x16
  | .cvBus => 0x17
  | .pmDepth => 0x20

/-- STATE is IDLE or DONE: START and command checks are made (R212, R214). -/
def acceptsStart (p : Phase) : Bool := decide (p = .idle) || decide (p = .done)

/-- Fault entry, `raise Fault(code, ch, buf)` of R248: "Nothing else changes". That the row buffers too keep their
rows is the model's choice (U16, assumption 28). -/
def raiseFault (code : FaultCode) (ch buf : BitVec 2) (s : State) : State :=
  { s with
    row := if acceptsStart s.phase then 0 else s.row
    stage := if acceptsStart s.phase then 0 else s.stage
    faultRec := ⟨faultByte code, ch, buf, if acceptsStart s.phase then 0 else s.row⟩
    phase := .fault }

/-- The return to the reset state, the only way out of FAULT (R216, R250, R270): every register and flag of R56, row
buffers without values (assumptions 24 and 28). The memories and the platform are not touched (R57); the model's own
fields stay, the count of free values above all (assumption 7). -/
def resetRegisters (s : State) : State :=
  { s with
    phase := .idle
    row := 0
    stage := 0
    wrerr := false
    faultRec := noFault
    irqen := 0
    scw := 0
    prec := 0
    roi := 0
    diffoff := 0
    alphaDc := 0
    alphaGain := 0
    alphaScale := 0
    outBase := 0
    outPitch := 0
    lpBase := ⟨0, 0, 0, 0⟩
    hpBase := ⟨0, 0, 0, 0⟩
    lpPitch := ⟨0, 0, 0, 0⟩
    hpPitch := ⟨0, 0, 0, 0⟩
    outPtr := 0
    lpPtr := ⟨0, 0, 0, 0⟩
    hpPtr := ⟨0, 0, 0, 0⟩
    rr := noRows
    wr := noRows
    cr := ⟨[], [], []⟩
    sr := ⟨[], []⟩
    ar := [] }

/-- A register write or a command was ignored because of the state the block was in (R30). -/
def setWrerr (s : State) : State := { s with wrerr := true }

/-- One use of free values is over; the next one is fresh (assumption 7). -/
def useFree (s : State) : State := { s with freeCount := s.freeCount + 1 }

/-! ### Shapes of a stage operation's end -/

/-- A SYN operation's bus errors: CV_BUS names one failing access, which one is free (R246, U15, assumption 9). -/
def raiseReadFault (fails : List (BitVec 2 × BitVec 2)) (s : State) : State :=
  let chosen := fails.getD (Config.busReport s.freeCount % fails.length) (0, 0)
  raiseFault .cvBus chosen.1 chosen.2 (useFree s)

/-- A row of packed bytes as it comes to stand at OUT_PTR: a byte the host has written too has an unspecified content
(R275, assumption 12). -/
def contend (s : State) (bytes : List Byte) : List Byte :=
  bytes.mapIdx fun k b =>
    if s.hostOut.contains (s.outPtr + BitVec.ofNat 32 k).toNat then Config.sharedByte s.freeCount k else b

/-- `MemWrite(OUT, OUT_PTR, n, bytes)` (R64) for those bytes of the row that `keep` chooses. -/
def writeRow (keep : Nat → Bool) (bytes : List Byte) (s : State) : State :=
  useFree { s with out := writeChosen keep 0 s.out s.outPtr (contend s bytes) }

/-- The row of a PK operation that completes: every byte is written (R73). -/
def writeWhole (bytes : List Byte) (s : State) : State := writeRow (fun _ => true) bytes s

/-- The row being packed when the PK operation does not complete: each byte holds its packed value or what it held
before, free per byte (U7, R248, assumption 8). -/
def writePartly (bytes : List Byte) (s : State) : State := writeRow (Config.byteLanded s.freeCount) bytes s

/-- The end of every PK operation (R176): the bytes go to OUT_PTR, or CV_BUS with CH = 0 and BUF = 3 (R246). -/
def storeRow (packed : Except Fault (List Byte)) (s : State) : Outcome :=
  match packed with
  | .error f => .fault f
  | .ok bytes =>
    if anyWriteFails s bytes.length then .next (raiseFault .cvBus 0 bufOut (writePartly bytes s))
    else .next (writeWhole bytes s)

end Sys2Proof.Machine
end

