-- ==== Sys2Proof/Machine/Color.lean ====
section
/-! DEFINITION. The ColorTransformer operations of slots 2, 3 and 4: CT.PASS, CT.DIFF, CT.MTX.*, CT.ALPHA (R145 to
R165). -/

namespace Sys2Proof.Machine

/-- The first `n` elements of a row, copied. -/
def copyRow (n : Nat) (row : Row) : Row := rowFrom n (elem row)

/-- CT.PASS, R148. -/
def execCtPass (s : State) : Outcome :=
  if written s.wr.c0 (2 * chanCount s 0) && written s.wr.c1 (2 * chanCount s 1) && written s.wr.c2 (2 * chanCount s 2) then
    .next { s with cr := ⟨copyRow (2 * chanCount s 0) s.wr.c0, copyRow (2 * chanCount s 1) s.wr.c1,
      copyRow (2 * chanCount s 2) s.wr.c2⟩ }
  else .fault .unwrittenElement

/-- CT.DIFF, R150: CR[0] = R, CR[1] = G, CR[2] = B. -/
def execCtDiff (s : State) : Outcome :=
  if written s.wr.c0 (rowWidth s) && written s.wr.c1 (rowWidth s) && written s.wr.c2 (rowWidth s) then
    .next { s with cr :=
      ⟨rowFrom (rowWidth s) fun i => diffComponent (pOut s) (diffOffset s) (elem s.wr.c1 i) (elem s.wr.c0 i),
       copyRow (rowWidth s) s.wr.c0,
       rowFrom (rowWidth s) fun i => diffComponent (pOut s) (diffOffset s) (elem s.wr.c2 i) (elem s.wr.c0 i)⟩ }
  else .fault .unwrittenElement

/-- One output row of `mtx` over the components CR holds (R154). -/
def matrixRow (m : Config.MatrixRow) (s : State) : Row :=
  rowFrom (rowWidth s) fun i => mtxRow m (pOut s) (elem s.cr.k0 i) (elem s.cr.k1 i) (elem s.cr.k2 i)

/-- A CT.MTX operation with its matrix: "All three inputs of an index are read before any of its three outputs is
written" (R155). -/
def applyMatrix (m : Config.Matrix) (s : State) : Outcome :=
  if written s.cr.k0 (rowWidth s) && written s.cr.k1 (rowWidth s) && written s.cr.k2 (rowWidth s) then
    .next { s with cr := ⟨matrixRow m.y s, matrixRow m.u s, matrixRow m.v s⟩ }
  else .fault .unwrittenElement

/-- CT.MTX.CG601, R155. -/
def execCtMtxCg601 (s : State) : Outcome := applyMatrix s.params.matrixRom.cg601 s

/-- CT.MTX.VS601, R157. -/
def execCtMtxVs601 (s : State) : Outcome := applyMatrix s.params.matrixRom.vs601 s

/-- CT.MTX.CG709, R158. -/
def execCtMtxCg709 (s : State) : Outcome := applyMatrix s.params.matrixRom.cg709 s

/-- CT.MTX.VS709, R159. -/
def execCtMtxVs709 (s : State) : Outcome := applyMatrix s.params.matrixRom.vs709 s

/-- AR of R160 from WR[3]. -/
def decompandedRow (s : State) : Row :=
  rowFrom (rowWidth s) fun i =>
    decompand (pOut s) (alphaDcValue s) (alphaGainValue s) (alphaScaleValue s) (elem s.wr.c3 i)

/-- CT.ALPHA, R160. -/
def execCtAlpha (s : State) : Outcome :=
  if written s.wr.c3 (rowWidth s) then .next { s with ar := decompandedRow s }
  else .fault .unwrittenElement

end Sys2Proof.Machine
end

