-- ==== Sys2Proof/Machine/Pack.lean ====
section
/-! DEFINITION. The PixelPacker operations of slots 5 and 6: SS.PAIR, SS.CW and the twelve PK.* (R170 to R193). -/

namespace Sys2Proof.Machine

/-! ### Chroma subsampling (R171 to R175) -/

/-- SR[k] from CR[k] by a function of the row and the pair's index (R171). -/
def subsample (f : Row → Nat → Int) (s : State) : Outcome :=
  if written s.cr.k1 (rowWidth s) && written s.cr.k2 (rowWidth s) then
    .next { s with sr := ⟨rowFrom (coefCount s) (f s.cr.k1), rowFrom (coefCount s) (f s.cr.k2)⟩ }
  else .fault .unwrittenElement

/-- SR[k][j] of R172. -/
def pairSample (row : Row) (j : Nat) : Int := pairAverage (elem row (2 * j)) (elem row (2 * j + 1))

/-- SR[k][j] of R173, with "edge replication at row start". -/
def centreSample (row : Row) (j : Nat) : Int :=
  centreAverage (if j = 0 then elem row 0 else elem row (2 * j - 1)) (elem row (2 * j)) (elem row (2 * j + 1))

/-- SS.PAIR, R172. -/
def execSsPair (s : State) : Outcome := subsample pairSample s

/-- SS.CW, R173. -/
def execSsCw (s : State) : Outcome := subsample centreSample s

/-! ### The byte lists (R176 to R191) -/

/-- The 4:2:2 packers' rows hold their values: Yv of Wd elements, Cu and Cv of N (R175). -/
def rows422Written (src422 : Bool) (s : State) : Bool :=
  written s.cr.k0 (rowWidth s) && written (chromaU src422 s) (coefCount s) && written (chromaV src422 s) (coefCount s)

/-- The three full-rate rows hold their values. -/
def rows444Written (s : State) : Bool :=
  written s.cr.k0 (rowWidth s) && written s.cr.k1 (rowWidth s) && written s.cr.k2 (rowWidth s)

/-- R180. -/
def bytesYuyv (src422 : Bool) (s : State) : Except Fault (List Byte) :=
  needRows (rows422Written src422 s) <| (List.range (coefCount s)).flatMap fun j =>
    [byteOf (elem s.cr.k0 (2 * j)), byteOf (elem (chromaU src422 s) j), byteOf (elem s.cr.k0 (2 * j + 1)),
      byteOf (elem (chromaV src422 s) j)]

/-- R181. -/
def bytesUyvy (src422 : Bool) (s : State) : Except Fault (List Byte) :=
  needRows (rows422Written src422 s) <| (List.range (coefCount s)).flatMap fun j =>
    [byteOf (elem (chromaU src422 s) j), byteOf (elem s.cr.k0 (2 * j)), byteOf (elem (chromaV src422 s) j),
      byteOf (elem s.cr.k0 (2 * j + 1))]

/-- The sixteen bytes of group `g` of R182: six pixels in four little-endian words. -/
def groupV210 (y u v : Row) (g : Nat) : List Byte :=
  le32 (w10 (elem u (3 * g)) (elem y (6 * g)) (elem v (3 * g))) ++
    le32 (w10 (elem y (6 * g + 1)) (elem u (3 * g + 1)) (elem y (6 * g + 2))) ++
    le32 (w10 (elem v (3 * g + 1)) (elem y (6 * g + 3)) (elem u (3 * g + 2))) ++
    le32 (w10 (elem y (6 * g + 4)) (elem v (3 * g + 2)) (elem y (6 * g + 5)))

/-- R182. -/
def bytesV210 (src422 : Bool) (s : State) : Except Fault (List Byte) :=
  needRows (rows422Written src422 s) <|
    (List.range (rowWidth s / 6)).flatMap (groupV210 s.cr.k0 (chromaU src422 s) (chromaV src422 s))

/-- R183. -/
def bytesV408 (alpha : Bool) (s : State) : Except Fault (List Byte) :=
  needRows (rows444Written s && alphaWritten alpha s) <| (List.range (rowWidth s)).flatMap fun i =>
    [byteOf (elem s.cr.k1 i), byteOf (elem s.cr.k0 i), byteOf (elem s.cr.k2 i), byteOf (alphaAt alpha s i)]

/-- R184. -/
def bytesAyuv (alpha : Bool) (s : State) : Except Fault (List Byte) :=
  needRows (rows444Written s && alphaWritten alpha s) <| (List.range (rowWidth s)).flatMap fun i =>
    [byteOf (alphaAt alpha s i), byteOf (elem s.cr.k0 i), byteOf (elem s.cr.k1 i), byteOf (elem s.cr.k2 i)]

/-- One plane of R185: `n` samples of a row, shifted up, least significant byte first. -/
def planeP16 (s : State) (n : Nat) (row : Row) : List Byte :=
  (List.range n).flatMap fun i => le16 (up16 (pOut s) (elem row i))

/-- R185. -/
def bytesP16 (alpha : Bool) (s : State) : Except Fault (List Byte) :=
  needRows (written s.cr.k0 (rowWidth s) && written s.cr.k1 (2 * chanCount s 1) && written s.cr.k2 (2 * chanCount s 1) &&
      alphaWritten alpha s) <|
    planeP16 s (rowWidth s) s.cr.k0 ++ planeP16 s (2 * chanCount s 1) s.cr.k1 ++ planeP16 s (2 * chanCount s 1) s.cr.k2 ++
      (if alpha then planeP16 s (rowWidth s) s.ar else [])

/-- A 10-bit RGB row: the four bytes of each pixel from its R, G and B (R186 to R190). -/
def bytesRgb10 (pixel : Int → Int → Int → List Byte) (s : State) : Except Fault (List Byte) :=
  needRows (rows444Written s) <| (List.range (rowWidth s)).flatMap fun i =>
    pixel (elem s.cr.k0 i) (elem s.cr.k1 i) (elem s.cr.k2 i)

/-- R186. -/
def pixelRg30 (r g b : Int) : List Byte := le32 (w10 r g b)

/-- R187. -/
def pixelAr10 (r g b : Int) : List Byte := le32 (w10 b g r)

/-- R188. -/
def pixelAb10 (r g b : Int) : List Byte := le32 (w10 r g b)

/-- R189. -/
def pixelR210 (r g b : Int) : List Byte := be32 (w10 b g r)

/-- R190. -/
def pixelDpx0 (r g b : Int) : List Byte := be32 (w10 b g r <<< 2)

/-- The 16-bit alpha of R191: shifted up, or 0xFFFF "whatever W is" (R177). -/
def alpha16 (alpha : Bool) (s : State) (i : Nat) : BitVec 16 :=
  if alpha then up16 (pOut s) (elem s.ar i) else 0xFFFF

/-- R191. -/
def bytesB64a (alpha : Bool) (s : State) : Except Fault (List Byte) :=
  needRows (rows444Written s && alphaWritten alpha s) <| (List.range (rowWidth s)).flatMap fun i =>
    be16 (alpha16 alpha s i) ++ be16 (up16 (pOut s) (elem s.cr.k0 i)) ++ be16 (up16 (pOut s) (elem s.cr.k1 i)) ++
      be16 (up16 (pOut s) (elem s.cr.k2 i))

/-- The byte list a PK operation writes (R176); the other operations write none. -/
def packedBytes (i : Instr) (s : State) : Except Fault (List Byte) :=
  match i with
  | .pkYuyv src422 => bytesYuyv src422 s
  | .pkUyvy src422 => bytesUyvy src422 s
  | .pkV210 src422 => bytesV210 src422 s
  | .pkV408 alpha => bytesV408 alpha s
  | .pkAyuv alpha => bytesAyuv alpha s
  | .pkP16 alpha => bytesP16 alpha s
  | .pkRg30 => bytesRgb10 pixelRg30 s
  | .pkAr10 => bytesRgb10 pixelAr10 s
  | .pkAb10 => bytesRgb10 pixelAb10 s
  | .pkR210 => bytesRgb10 pixelR210 s
  | .pkDpx0 => bytesRgb10 pixelDpx0 s
  | .pkB64a alpha => bytesB64a alpha s
  | .nop | .start | .reset | .synStd _ | .synLim _ _ | .synDsc _ | .rsc _ | .rscD _ => .ok []
  | .ctPass | .ctDiff | .ctMtxCg601 | .ctMtxVs601 | .ctMtxCg709 | .ctMtxVs709 | .ctAlpha => .ok []
  | .ssPair | .ssCw | .adv => .ok []

/-! ### The operations -/

/-- PK.YUYV, R180. -/
def execPkYuyv (src422 : Bool) (s : State) : Outcome := storeRow (bytesYuyv src422 s) s

/-- PK.UYVY, R181. -/
def execPkUyvy (src422 : Bool) (s : State) : Outcome := storeRow (bytesUyvy src422 s) s

/-- PK.V210, R182. -/
def execPkV210 (src422 : Bool) (s : State) : Outcome := storeRow (bytesV210 src422 s) s

/-- PK.V408, R183. -/
def execPkV408 (alpha : Bool) (s : State) : Outcome := storeRow (bytesV408 alpha s) s

/-- PK.AYUV, R184. -/
def execPkAyuv (alpha : Bool) (s : State) : Outcome := storeRow (bytesAyuv alpha s) s

/-- PK.P16, R185. -/
def execPkP16 (alpha : Bool) (s : State) : Outcome := storeRow (bytesP16 alpha s) s

/-- PK.RG30, R186. -/
def execPkRg30 (s : State) : Outcome := storeRow (bytesRgb10 pixelRg30 s) s

/-- PK.AR10, R187. -/
def execPkAr10 (s : State) : Outcome := storeRow (bytesRgb10 pixelAr10 s) s

/-- PK.AB10, R188. -/
def execPkAb10 (s : State) : Outcome := storeRow (bytesRgb10 pixelAb10 s) s

/-- PK.R210, R189. -/
def execPkR210 (s : State) : Outcome := storeRow (bytesRgb10 pixelR210 s) s

/-- PK.DPX0, R190. -/
def execPkDpx0 (s : State) : Outcome := storeRow (bytesRgb10 pixelDpx0 s) s

/-- PK.B64A, R191. -/
def execPkB64a (alpha : Bool) (s : State) : Outcome := storeRow (bytesB64a alpha s) s

end Sys2Proof.Machine
end

