-- ==== Sys2Proof/Machine/Orchestrator.lean ====
section
/-! DEFINITION. The StripOrchestrator: the commands NOP, START and RESET, the start-time checks, and ADV (R210 to
R222). -/

namespace Sys2Proof.Machine

/-! ### The start-time checks (R214) -/

/-- What a failing check records: FAULT.CODE, FAULT.CH, FAULT.BUF (R214). -/
structure Violation where
  code : FaultCode
  ch   : BitVec 2
  buf  : BitVec 2
  deriving DecidableEq, Repr

/-- A check: no violation when its condition holds. -/
def require (ok : Bool) (v : Violation) : Option Violation := if ok then none else some v

/-- Check 2: SCW.FORMAT is one of the twelve codes of R97. -/
def checkFormat (s : State) : Option Violation := require (format s).isSome ⟨.cvFormat, 0, 0⟩

/-- The condition of check 3. -/
def roiLegal (s : State) : Bool :=
  decide (3 ≤ coefCount s) && decide (coefCount s ≤ s.params.maxN) &&
    (!scwSrc422 s.scw || (coefCount s % 2 == 0 && decide (6 ≤ coefCount s)))

/-- Check 3. -/
def checkRoi (s : State) : Option Violation := require (roiLegal s) ⟨.cvRoi, 0, 0⟩

/-- The SCW part of check 4 (R91, R94). -/
def scwFieldsLegal (s : State) : Bool :=
  decide (scwReserved s.scw = 0) && decide (scwSynmode s.scw ≠ 3) &&
    (decide (scwSynmode s.scw ≠ 1) || decide (scwLimbits s.scw ≠ 0)) &&
    (!scwOutsign s.scw || (decide (format s = some .p16) && !scwSrc s.scw && !scwAlpha s.scw))

/-- The PREC part of check 4 (R39). -/
def precLegal (s : State) : Bool :=
  decide (8 ≤ pInt s) && decide (pInt s ≤ 16) && (pOut s == 8 || pOut s == 10 || pOut s == 16) &&
    decide (s.prec.extractLsb' 5 3 = 0) && decide (s.prec.extractLsb' 13 19 = 0)

/-- The part of check 4 on the registers of the colour stage, each only when it is read (R41 to R44, R104). -/
def colorRegistersLegal (s : State) : Bool :=
  (!scwSrc s.scw || decide (s.diffoff.extractLsb' 18 14 = 0)) &&
    (!scwAlpha s.scw || (decide (s.alphaDc.extractLsb' 16 16 = 0) && decide (s.alphaGain.extractLsb' 16 16 = 0) &&
      decide (s.alphaScale.extractLsb' 5 27 = 0)))

/-- Check 4. -/
def checkFields (s : State) : Option Violation :=
  require (scwFieldsLegal s && precLegal s && colorRegistersLegal s) ⟨.cvField, 0, 0⟩

/-- The condition of check 5 (R102). -/
def shapeLegal (s : State) : Bool :=
  !(scwSrc s.scw && scwSrc422 s.scw) && !(scwIsRgb s.scw && !scwSrc s.scw) &&
    !(scwSrc422 s.scw && (decide (format s = some .v408) || decide (format s = some .ayuv)))

/-- Check 5. -/
def checkShape (s : State) : Option Violation := require (shapeLegal s) ⟨.cvShape, 0, 0⟩

/-- Check 6 (R100); without a format check 2 has failed already. -/
def checkAlign (s : State) : Option Violation :=
  match format s with
  | some f => require (widthAligned f (coefCount s)) ⟨.cvAlign, 0, 0⟩
  | none => none

/-- Check 7 (R101). -/
def checkDepth (s : State) : Option Violation :=
  match format s with
  | some f => require (depthLegal f (pOut s)) ⟨.pmDepth, 0, 0⟩
  | none => none

/-- Check 8 for one channel: first LP_PITCH, then HP_PITCH; a channel not in use is not checked. -/
def checkChannelPitch (s : State) (ch : Fin 4) : Option Violation :=
  (require (!inUse s ch || decide (chanCount s ch ≤ (s.lpPitch.get ch).toNat)) ⟨.cvPitch, BitVec.ofFin ch, bufLow⟩).or
    (require (!inUse s ch || decide (chanCount s ch ≤ (s.hpPitch.get ch).toNat)) ⟨.cvPitch, BitVec.ofFin ch, bufHigh⟩)

/-- Check 8, the channels in order. -/
def checkPitches (s : State) : Option Violation :=
  (checkChannelPitch s 0).or ((checkChannelPitch s 1).or ((checkChannelPitch s 2).or (checkChannelPitch s 3)))

/-- Check 9. -/
def checkOutPitch (s : State) : Option Violation :=
  match format s with
  | some f => require (decide (rowBytes f s ≤ s.outPitch.toNat)) ⟨.cvPitch, 0, bufOut⟩
  | none => none

/-- Checks 2 to 9 in order: "the first that fails decides the fault code" (R214). -/
def firstViolation (s : State) : Option Violation :=
  (checkFormat s).or ((checkRoi s).or ((checkFields s).or ((checkShape s).or ((checkAlign s).or ((checkDepth s).or
    ((checkPitches s).or (checkOutPitch s)))))))

/-! ### The commands -/

/-- NOP, R211: "changes no state, sets no flag". -/
def execNop (s : State) : Outcome := .next s

/-- The strip's first position (R213): pointers at their bases for all four channels, ROW and STAGE 0; of an earlier
strip "nothing … survives except the descriptor registers, IRQEN and WRERR", so no row-buffer element holds a value
(assumption 5). START is the acquire point (R78): what the host wrote during an earlier strip is settled. -/
def beginStrip (s : State) : State :=
  { s with
    row := 0
    stage := 0
    outPtr := s.outBase
    lpPtr := s.lpBase
    hpPtr := s.hpBase
    rr := noRows
    wr := noRows
    cr := ⟨[], [], []⟩
    sr := ⟨[], []⟩
    ar := []
    overwritten := []
    hostOut := []
    phase := if height s = 0 then .done else .busy }

/-- START, R213. -/
def execStart (s : State) : Outcome :=
  if acceptsStart s.phase then
    match firstViolation s with
    | some v => .next (raiseFault v.code v.ch v.buf s)
    | none => .next (beginStrip s)
  else .next (setWrerr s)

/-- What a reset does to OUT: cut inside a PK operation, each byte of the row being packed may have been written (R216,
R271, U7, assumption 8); else nothing. -/
def abandonRow (s : State) : State :=
  if s.phase = .busy ∧ s.stage = 6 then
    match decode (.slot 6) s.scw with
    | .ok i =>
      match packedBytes i s with
      | .ok bytes => writePartly bytes s
      | .error _ => s
    | .error _ => s
  else s

/-- RESET, R216, and equally the hardware reset (R270). -/
def execReset (s : State) : Outcome := .next (resetRegisters (abandonRow s))

/-! ### The row advance -/

/-- A pointer register of a channel in use plus its pitch, modulo 2^32 (R222). -/
def advancePointers (s : State) (ptr pitch : Quad Word) : Quad Word :=
  .build fun ch => if inUse s ch then ptr.get ch + pitch.get ch else ptr.get ch

/-- ADV, R222. -/
def execAdv (s : State) : Outcome :=
  .next { s with
    lpPtr := advancePointers s s.lpPtr s.lpPitch
    hpPtr := advancePointers s s.hpPtr s.hpPitch
    outPtr := s.outPtr + s.outPitch
    row := s.row + 1
    stage := 0
    phase := if s.row + 1 = height s then .done else s.phase }

end Sys2Proof.Machine
end

