-- ==== Sys2Proof/Machine/Rescale.lean ====
section
/-! DEFINITION. The PrecisionRescaler operations of slot 1: RSC and RSC.D (R130 to R140). -/

namespace Sys2Proof.Machine

/-- WR[ch] from RR[ch] by a function of channel, element index and value (R130). -/
def rescaledRow (f : Fin 4 → Nat → Int → Int) (s : State) (ch : Fin 4) : Row :=
  rowFrom (2 * chanCount s ch) fun i => f ch i (elem (s.rr.get ch) i)

/-- One operation of slot 1 over every channel in use: it reads RR and writes WR (R130). -/
def rescaleRows (f : Fin 4 → Nat → Int → Int) (s : State) : Outcome :=
  if channelsWritten s s.rr then
    .next { s with wr := .build fun ch => if inUse s ch then rescaledRow f s ch else s.wr.get ch }
  else .fault .unwrittenElement

/-- RSC, R133. -/
def execRsc (outsign : Bool) (s : State) : Outcome :=
  rescaleRows (fun _ _ v => rescale outsign (pInt s) (pOut s) v) s

/-- RSC.D, R136: when the shift is at least 2 every element has its own draw, and the operation is one use of free
values; else it "is exactly RSC". The draw is no state of the block (R46); `useFree` only keeps the model's draws of
different operations apart (assumption 7). -/
def execRscD (outsign : Bool) (s : State) : Outcome :=
  if pOut s + 2 ≤ pInt s then
    match rescaleRows (fun ch i v => rescaleDithered outsign (pInt s) (pOut s)
        (ditherTerm s.freeCount ch.val i (pInt s - pOut s)) v) s with
    | .next t => .next (useFree t)
    | .fault f => .fault f
    | .refused r => .refused r
  else rescaleRows (fun _ _ v => rescale outsign (pInt s) (pOut s) v) s

end Sys2Proof.Machine
end

