-- ==== Sys2Proof/Machine/Synthesis.lean ====
section
/-! DEFINITION. The SynthesisFilter operations of slot 0: SYN.STD, SYN.LIM, SYN.DSC (R110 to R125). -/

namespace Sys2Proof.Machine

/-- A channel in use with one or two coefficients, for which R113 to R115 have no meaning (R124). -/
def narrowChannel (s : State) : Bool :=
  [0, 1, 2, 3].any fun ch => inUse s ch && decide (0 < chanCount s ch) && decide (chanCount s ch < 3)

/-- RR[ch] of a SYN operation whose last step is `finish` (R110, R111, R117 to R119), each element from its own reads
of the coefficients (R72). -/
def synthRow (finish : Int → Int) (s : State) (ch : Fin 4) : Row :=
  rowFrom (2 * chanCount s ch) fun i => finish (preSum (readLow s ch i) (readHigh s ch i) (chanCount s ch) i)

/-- One SYN operation over every channel in use: it "reads COEF, writes RR, and touches nothing else" (R112), or raises
CV_BUS (R246) and writes no row. DESIGN CHOICE: after CV_BUS RR holds the rows it held before; the spec leaves its
content open (R249, U16 "any value"; assumption 28). -/
def synthesize (finish : Int → Int) (s : State) : Outcome :=
  if narrowChannel s then .fault .narrowRow
  else
    match failingReads s with
    | [] => .next (useFree { s with rr := .build fun ch => if inUse s ch then synthRow finish s ch else s.rr.get ch })
    | fails => .next (raiseReadFault fails s)

/-- SYN.STD, R117. -/
def execSynStd (div2rnd : Bool) (s : State) : Outcome := synthesize (finishStd div2rnd) s

/-- SYN.LIM, R118. -/
def execSynLim (div2rnd : Bool) (limbits : BitVec 4) (s : State) : Outcome :=
  synthesize (finishLim div2rnd limbits.toNat) s

/-- SYN.DSC, R119. -/
def execSynDsc (dshift : Bool) (s : State) : Outcome := synthesize (finishDsc dshift) s

end Sys2Proof.Machine
end

