-- ==== Sys2Proof/Machine/Dispatch.lean ====
section
/-! DEFINITION. The meaning of every instruction, one arm per constructor of Instr. -/

namespace Sys2Proof.Machine

def exec (i : Instr) (s : State) : Host.Outcome State Fault Refusal :=
  match i with
  | .nop => Sys2Proof.Machine.execNop s
  | .start => Sys2Proof.Machine.execStart s
  | .reset => Sys2Proof.Machine.execReset s
  | .synStd div2rnd => Sys2Proof.Machine.execSynStd div2rnd s
  | .synLim div2rnd limbits => Sys2Proof.Machine.execSynLim div2rnd limbits s
  | .synDsc dshift => Sys2Proof.Machine.execSynDsc dshift s
  | .rsc outsign => Sys2Proof.Machine.execRsc outsign s
  | .rscD outsign => Sys2Proof.Machine.execRscD outsign s
  | .ctPass => Sys2Proof.Machine.execCtPass s
  | .ctDiff => Sys2Proof.Machine.execCtDiff s
  | .ctMtxCg601 => Sys2Proof.Machine.execCtMtxCg601 s
  | .ctMtxVs601 => Sys2Proof.Machine.execCtMtxVs601 s
  | .ctMtxCg709 => Sys2Proof.Machine.execCtMtxCg709 s
  | .ctMtxVs709 => Sys2Proof.Machine.execCtMtxVs709 s
  | .ctAlpha => Sys2Proof.Machine.execCtAlpha s
  | .ssPair => Sys2Proof.Machine.execSsPair s
  | .ssCw => Sys2Proof.Machine.execSsCw s
  | .pkYuyv src422 => Sys2Proof.Machine.execPkYuyv src422 s
  | .pkUyvy src422 => Sys2Proof.Machine.execPkUyvy src422 s
  | .pkV210 src422 => Sys2Proof.Machine.execPkV210 src422 s
  | .pkV408 alpha => Sys2Proof.Machine.execPkV408 alpha s
  | .pkAyuv alpha => Sys2Proof.Machine.execPkAyuv alpha s
  | .pkP16 alpha => Sys2Proof.Machine.execPkP16 alpha s
  | .pkRg30 => Sys2Proof.Machine.execPkRg30 s
  | .pkAr10 => Sys2Proof.Machine.execPkAr10 s
  | .pkAb10 => Sys2Proof.Machine.execPkAb10 s
  | .pkR210 => Sys2Proof.Machine.execPkR210 s
  | .pkDpx0 => Sys2Proof.Machine.execPkDpx0 s
  | .pkB64a alpha => Sys2Proof.Machine.execPkB64a alpha s
  | .adv => Sys2Proof.Machine.execAdv s

end Sys2Proof.Machine
end

