-- ==== Sys2Proof/Machine/Flags.lean ====
section
/-! DEFINITION. The status the host reads: the block has no condition codes, "The only flags are in STATUS" (R30). -/

namespace Sys2Proof.Machine

/-- STATE as its two bits (R27). -/
def phaseBits : Phase → BitVec 2
  | .idle => 0
  | .busy => 1
  | .done => 2
  | .fault => 3

/-- `IRQEN.DONE_EN`, bit 0 (R37). -/
def doneEnabled (s : State) : Bool := wordBit s.irqen 0

/-- `IRQEN.FAULT_EN`, bit 1 (R37). -/
def faultEnabled (s : State) : Bool := wordBit s.irqen 1

/-- The level of the completion line, R256. -/
def irqLine (s : State) : Bool :=
  (decide (s.phase = .done) && doneEnabled s) || (decide (s.phase = .fault) && faultEnabled s)

/-- STATUS, R35. -/
def statusWord (s : State) : Word :=
  (phaseBits s.phase).setWidth 32 ||| bitAt s.wrerr 4 ||| bitAt (irqLine s) 5 ||| (s.stage.setWidth 32 <<< 8)

/-- FAULT as its word, R36. -/
def faultWord (s : State) : Word :=
  s.faultRec.code.setWidth 32 ||| (s.faultRec.ch.setWidth 32 <<< 8) ||| (s.faultRec.buf.setWidth 32 <<< 10) |||
    (s.faultRec.row.setWidth 32 <<< 16)

end Sys2Proof.Machine
end

