-- ==== Sys2Proof/Machine/HostPort.lean ====
section
/-! DEFINITION. The register space REG (R31 to R53), command words (R212), and the host's writes to the memories. -/

namespace Sys2Proof.Machine

/-! ### The register map (R32) -/

/-- The register at a byte offset of the window; `none` at a reserved offset (R52). -/
def regAt (offset : BitVec 8) : Option Reg :=
  match offset.toNat with
  | 0x00 => some .id
  | 0x04 => some .cmd
  | 0x08 => some .status
  | 0x0C => some .fault
  | 0x10 => some .irqen
  | 0x14 => some .scw
  | 0x18 => some .prec
  | 0x1C => some .roi
  | 0x20 => some .diffoff
  | 0x24 => some .alphaDc
  | 0x28 => some .alphaGain
  | 0x2C => some .alphaScale
  | 0x30 => some .outBase
  | 0x34 => some .outPitch
  | 0x40 => some (.lpBase 0)
  | 0x44 => some (.lpBase 1)
  | 0x48 => some (.lpBase 2)
  | 0x4C => some (.lpBase 3)
  | 0x50 => some (.hpBase 0)
  | 0x54 => some (.hpBase 1)
  | 0x58 => some (.hpBase 2)
  | 0x5C => some (.hpBase 3)
  | 0x60 => some (.lpPitch 0)
  | 0x64 => some (.lpPitch 1)
  | 0x68 => some (.lpPitch 2)
  | 0x6C => some (.lpPitch 3)
  | 0x70 => some (.hpPitch 0)
  | 0x74 => some (.hpPitch 1)
  | 0x78 => some (.hpPitch 2)
  | 0x7C => some (.hpPitch 3)
  | 0x80 => some .row
  | 0x84 => some .outPtr
  | 0x90 => some (.lpPtr 0)
  | 0x94 => some (.lpPtr 1)
  | 0x98 => some (.lpPtr 2)
  | 0x9C => some (.lpPtr 3)
  | 0xA0 => some (.hpPtr 0)
  | 0xA4 => some (.hpPtr 1)
  | 0xA8 => some (.hpPtr 2)
  | 0xAC => some (.hpPtr 3)
  | _ => none

/-- A whole aligned word, the only access the interface carries (R31). -/
def accessOk (width : Width) (offset : BitVec 8) : Bool := decide (width = .word) && decide (offset.toNat % 4 = 0)

/-- What a register reads (R33 to R51); CMD is write-only and reads 0 (R34). "Reads never have side effects" (R31). -/
def readReg (s : State) : Reg → Word
  | .id => Config.idValue
  | .cmd => 0
  | .status => statusWord s
  | .fault => faultWord s
  | .irqen => s.irqen
  | .scw => s.scw
  | .prec => s.prec
  | .roi => s.roi
  | .diffoff => s.diffoff
  | .alphaDc => s.alphaDc
  | .alphaGain => s.alphaGain
  | .alphaScale => s.alphaScale
  | .outBase => s.outBase
  | .outPitch => s.outPitch
  | .lpBase ch => s.lpBase.get ch
  | .hpBase ch => s.hpBase.get ch
  | .lpPitch ch => s.lpPitch.get ch
  | .hpPitch ch => s.hpPitch.get ch
  | .row => s.row.setWidth 32
  | .outPtr => s.outPtr
  | .lpPtr ch => s.lpPtr.get ch
  | .hpPtr ch => s.hpPtr.get ch

/-- A read of the window: a reserved offset reads 0 (R31, R52). -/
def readOffset (s : State) (offset : BitVec 8) : Word :=
  match regAt offset with
  | some r => readReg s r
  | none => 0

/-! ### Writes -/

/-- "RW-d" of R32: read-write, ignored while BUSY. -/
def isDescriptor : Reg → Bool
  | .scw | .prec | .roi | .diffoff | .alphaDc | .alphaGain | .alphaScale | .outBase | .outPitch => true
  | .lpBase _ | .hpBase _ | .lpPitch _ | .hpPitch _ => true
  | .id | .cmd | .status | .fault | .irqen | .row | .outPtr | .lpPtr _ | .hpPtr _ => false

/-- Stores a descriptor register: "stores all 32 bits exactly as written" (R31). Registers that are not descriptors
are left alone. -/
def storeDescriptor (r : Reg) (v : Word) (s : State) : State :=
  match r with
  | .scw => { s with scw := v }
  | .prec => { s with prec := v }
  | .roi => { s with roi := v }
  | .diffoff => { s with diffoff := v }
  | .alphaDc => { s with alphaDc := v }
  | .alphaGain => { s with alphaGain := v }
  | .alphaScale => { s with alphaScale := v }
  | .outBase => { s with outBase := v }
  | .outPitch => { s with outPitch := v }
  | .lpBase ch => { s with lpBase := s.lpBase.set ch v }
  | .hpBase ch => { s with hpBase := s.hpBase.set ch v }
  | .lpPitch ch => { s with lpPitch := s.lpPitch.set ch v }
  | .hpPitch ch => { s with hpPitch := s.hpPitch.set ch v }
  | .id | .cmd | .status | .fault | .irqen | .row | .outPtr | .lpPtr _ | .hpPtr _ => s

/-- An invalid command word: CV_CMD in IDLE and DONE, ignored with WRERR in BUSY and FAULT (R104, R212). -/
def invalidCommand (s : State) : State :=
  if acceptsStart s.phase then raiseFault .cvCmd 0 0 s else setWrerr s

/-- A word written to CMD (R34, R87, R212). -/
def writeCommand (w : Word) (s : State) : Outcome :=
  match decode .cmd w with
  | .ok i => exec i s
  | .error _ => .next (invalidCommand s)

/-- A write of a register: CMD executes a command, IRQEN is writable in every state (R37), a descriptor is frozen
while BUSY (R53), a read-only register ignores it "and sets nothing" (R31). -/
def writeReg (r : Reg) (w : Word) (s : State) : Outcome :=
  match r with
  | .cmd => writeCommand w s
  | .irqen => .next { s with irqen := w }
  | .id | .status | .fault | .row | .outPtr | .lpPtr _ | .hpPtr _ => .next s
  | .scw | .prec | .roi | .diffoff | .alphaDc | .alphaGain | .alphaScale | .outBase | .outPitch
  | .lpBase _ | .hpBase _ | .lpPitch _ | .hpPitch _ =>
    if s.phase = .busy then .next (setWrerr s) else .next (storeDescriptor r w s)

/-- A read on the REG interface; what it returns is `rdata` (assumption 23). -/
def portRead (width : Width) (offset : BitVec 8) (s : State) : Outcome :=
  if accessOk width offset then .next { s with rdata := readOffset s offset } else .refused .registerAccess

/-- A write on the REG interface. -/
def portWrite (width : Width) (offset : BitVec 8) (w : Word) (s : State) : Outcome :=
  if accessOk width offset then
    match regAt offset with
    | some r => writeReg r w s
    | none => .next s
  else .refused .registerAccess

/-! ### The memories seen from outside -/

/-- The distance from one address up to another, modulo 2^32. -/
def distance (start a : Word) : Nat := (a - start).toNat

/-- A byte address lies in one of the strip's first `n` output rows (R66, R73). -/
def inFirstRows (n : Nat) (s : State) (a : Word) : Bool :=
  match format s with
  | some f => (List.range n).any fun r => decide (distance (s.outBase + BitVec.ofNat 32 r * s.outPitch) a < rowBytes f s)
  | none => false

/-- A byte address lies in an output row of the strip. -/
def inOutRows (s : State) (a : Word) : Bool := inFirstRows (height s).toNat s a

/-- A byte address lies in an output row of the running strip that is packed already: the rows before ROW, and row ROW
once STAGE is past slot 6. -/
def inPackedRows (s : State) (a : Word) : Bool := inFirstRows (s.row.toNat + if s.stage = 7 then 1 else 0) s a

/-- A sample is put into COEF from outside the block. While BUSY the block may still read what the sample held before
(R78, R274, U9, assumption 11). -/
def hostCoefWrite (a : Word) (v : Sample) (s : State) : Outcome :=
  .next { s with
    coef := s.coef.write a.toNat v
    overwritten := if s.phase = .busy then (a.toNat, s.coef.read a.toNat) :: s.overwritten else s.overwritten }

/-- The host writes a byte of OUT, which "does no harm to the block" (R275). While BUSY, the final content of a byte that
the block has packed, or packs later, is unspecified (assumption 12). -/
def hostOutWrite (a : Word) (v : Byte) (s : State) : Outcome :=
  if s.phase = .busy then
    .next (useFree { s with
      out := s.out.write a.toNat (if inPackedRows s a then Config.sharedByte s.freeCount 0 else v)
      hostOut := a.toNat :: s.hostOut })
  else .next { s with out := s.out.write a.toNat v }

end Sys2Proof.Machine
end

