-- ==== Sys2Proof/Machine/Sequencer.lean ====
section
/-! DEFINITION. Which operation runs next (R226), and how the actions from outside fall between the steps (R247). -/

namespace Sys2Proof.Machine

/-- The operation that fills slot STAGE under the latched SCW (R95, R226). -/
def fetch (s : State) : Except Reject Instr := decode (.slot s.stage) s.scw

/-- STAGE after an operation: "if op is not ADV: STAGE <- the smallest filled slot greater than STAGE"; after a fault
the position stays (R226, R248). -/
def advanceStage (i : Instr) (t : State) : State :=
  if i = .adv ∨ t.phase ≠ .busy then t else { t with stage := nextSlot t.scw t.stage }

/-- One stage operation (R226). An empty slot "is skipped" (R95); in a run STAGE never stands on one (assumption
15). -/
def stageStep (s : State) : Outcome :=
  match fetch s with
  | .ok i =>
    match exec i s with
    | .next t => .next (advanceStage i t)
    | .fault f => .fault f
    | .refused r => .refused r
  | .error _ => .next { s with stage := nextSlot s.scw s.stage }

/-- What the orchestrator does in one step: a stage operation while BUSY, nothing in IDLE, DONE and FAULT (R226,
R258). -/
def orchestrate (s : State) : Outcome := if s.phase = .busy then stageStep s else .next s

/-- WAIT of R106: STATUS has been read as DONE or FAULT, or the orchestrator goes on and the statement stays. -/
def waitStep (s rest : State) : Outcome :=
  if s.phase = .done ∨ s.phase = .fault then .next { rest with rdata := statusWord s } else orchestrate s

/-- One step of the instance with its surroundings: the next action from outside takes effect between two steps of the
orchestrator (R247); with none the orchestrator takes one step. -/
def takeStep (s : State) : Outcome :=
  match s.inputs with
  | [] => orchestrate s
  | .run :: rest => orchestrate { s with inputs := rest }
  | .wait :: rest => waitStep s { s with inputs := rest }
  | .read width offset :: rest => portRead width offset { s with inputs := rest }
  | .write width offset value :: rest => portWrite width offset value { s with inputs := rest }
  | .hardReset :: rest => .next (resetRegisters (abandonRow { s with inputs := rest }))
  | .coefWrite a v :: rest => hostCoefWrite a v { s with inputs := rest }
  | .outWrite a v :: rest => hostOutWrite a v { s with inputs := rest }
  | .busAnswers coefErrors outErrors :: rest => .next { s with inputs := rest, bus := ⟨coefErrors, outErrors⟩ }

/-- A command word about to be written to CMD. -/
def commandInput (w : Word) : Input := .write .word 0x04 w

/-- A state whose next step executes the word of the opcode table, at the place `tableSite` gives it: a command is the
host's next write to CMD, a stage operation fills the slot the sequencer stands at (assumption 1). -/
def placeWord (s : State) (nbits w : Nat) : State :=
  match tableSite nbits w with
  | some (.slot k) => { s with inputs := [], phase := .busy, stage := k, scw := BitVec.ofNat 32 w }
  | some .cmd => { s with inputs := [commandInput (BitVec.ofNat 32 w)] }
  | none => { s with inputs := [commandInput (BitVec.ofNat 32 w)] }

end Sys2Proof.Machine
end

