-- ==== Sys2Proof/Machine/Step.lean ====
section
/-! DEFINITION. One step of the machine, and where the host puts the word the next step executes. -/

namespace Sys2Proof.Machine

/-- One step (R226, R247). -/
def step (s : State) : Host.Outcome State Fault Refusal := takeStep s

/-- The word of an opcode-table row placed where the next step takes it (assumption 1). -/
def State.withFetchWord (s : State) (nbits w : Nat) : State := placeWord s nbits w

end Sys2Proof.Machine
end

