-- ==== Sys2Proof/Safety.lean ====
section
/-! DEFINITION. What the statements speak of: unchanged memories, the bytes of a packed row, the state of a running
strip that every step keeps, and the outcomes that count as the model stopping. -/

namespace Sys2Proof.Machine

/-! ### Frames -/

/-- Both memories read at every address as before. -/
def SameMemories (s t : State) : Prop :=
  (∀ a, outByte t a = outByte s a) ∧ ∀ a, coefSample t a = coefSample s a

/-- OUT reads as before at every address that is not one of the `n` bytes from OUT_PTR on, and COEF everywhere. -/
def SameOutsideRow (s t : State) (n : Nat) : Prop :=
  (∀ a, n ≤ distance s.outPtr a → outByte t a = outByte s a) ∧ ∀ a, coefSample t a = coefSample s a

/-- Every host-written register (R20 (e)) is as before. -/
def SameDescriptors (s t : State) : Prop :=
  t.scw = s.scw ∧ t.prec = s.prec ∧ t.roi = s.roi ∧ t.diffoff = s.diffoff ∧ t.alphaDc = s.alphaDc ∧
    t.alphaGain = s.alphaGain ∧ t.alphaScale = s.alphaScale ∧ t.outBase = s.outBase ∧ t.outPitch = s.outPitch ∧
    t.lpBase = s.lpBase ∧ t.hpBase = s.hpBase ∧ t.lpPitch = s.lpPitch ∧ t.hpPitch = s.hpPitch ∧ t.irqen = s.irqen

/-! ### Packed bytes, words and samples in OUT -/

/-- Byte `k` of the output row that starts at OUT_PTR of `s`, as it stands in `t` (R66). -/
def rowByte (s t : State) (k : Nat) : Byte := outByte t (s.outPtr + BitVec.ofNat 32 k)

/-- The 16-bit unit at byte `k` of the row, least significant byte first. -/
def rowLe16 (s t : State) (k : Nat) : BitVec 16 := rowByte s t (k + 1) ++ rowByte s t k

/-- The 16-bit unit at byte `k` of the row, most significant byte first. -/
def rowBe16 (s t : State) (k : Nat) : BitVec 16 := rowByte s t k ++ rowByte s t (k + 1)

/-- The 32-bit word at byte `k` of the row, least significant byte first. -/
def rowLe32 (s t : State) (k : Nat) : Word := rowLe16 s t (k + 2) ++ rowLe16 s t k

/-- The 32-bit word at byte `k` of the row, most significant byte first. -/
def rowBe32 (s t : State) (k : Nat) : Word := rowBe16 s t k ++ rowBe16 s t (k + 2)

/-- The component fits 10 bits. -/
def isTen (v : Int) : Prop := 0 ≤ v ∧ v ≤ 1023

/-- The platform answers every coefficient read of the current row (R62, R72). -/
def ReadsAnswered (s : State) : Prop :=
  ∀ ch, inUse s ch = true → ∀ c, c < chanCount s ch →
    coefFails s (s.lpPtr.get ch + BitVec.ofNat 32 c) = false ∧ coefFails s (s.hpPtr.get ch + BitVec.ofNat 32 c) = false

/-- The platform answers the write of every byte of an output row of `n` bytes (R64, R73). -/
def WritesAnswered (s : State) (n : Nat) : Prop := ∀ k, k < n → outFails s (s.outPtr + BitVec.ofNat 32 k) = false

/-- The host has written no byte of an output row of `n` bytes since the strip began (R275). -/
def Uncontested (s : State) (n : Nat) : Prop := ∀ k, k < n → (s.outPtr + BitVec.ofNat 32 k).toNat ∉ s.hostOut

/-- Every byte of an output row of `n` bytes is answered and is the block's alone. -/
def RowWritable (s : State) (n : Nat) : Prop := WritesAnswered s n ∧ Uncontested s n

/-- Between `s` and `t` at most the `n` bytes from OUT_PTR on have changed, and the model's count of free values. -/
def OnlyRowWritten (s t : State) (n : Nat) : Prop :=
  t = { s with out := t.out, freeCount := t.freeCount } ∧ SameOutsideRow s t n

/-- Every channel in use has at least three coefficients (R111). -/
def ChannelsWide (s : State) : Prop := ∀ ch, inUse s ch = true → 3 ≤ chanCount s ch

/-- Every row buffer of `rows` that is in use has its 2 * Nc(ch) elements (R22, R26). -/
def RowsHeld (s : State) (rows : Quad Row) : Prop :=
  ∀ ch, inUse s ch = true → 2 * chanCount s ch ≤ (rows.get ch).length

/-- The three rows CR hold `n` elements each (R24, R26). -/
def ComponentsHeld (s : State) (n : Nat) : Prop := n ≤ s.cr.k0.length ∧ n ≤ s.cr.k1.length ∧ n ≤ s.cr.k2.length

/-- The rows a 4:2:2 packer reads hold their elements (R175). -/
def Rows422Held (src422 : Bool) (s : State) : Prop :=
  rowWidth s ≤ s.cr.k0.length ∧ coefCount s ≤ (chromaU src422 s).length ∧ coefCount s ≤ (chromaV src422 s).length

/-- AR holds its elements when there is an alpha channel (R25, R177). -/
def AlphaHeld (alpha : Bool) (s : State) : Prop := alpha = true → rowWidth s ≤ s.ar.length

/-! ### Synthesized rows -/

/-- The values a read of `lp[c]` of a channel may return: one, but for a sample written while BUSY (R78, U9). -/
def heldLow (s : State) (ch : Fin 4) (c : Nat) : List Int := heldSamples s (s.lpPtr.get ch + BitVec.ofNat 32 c)

/-- The values a read of `hp[c]` of a channel may return. -/
def heldHigh (s : State) (ch : Fin 4) (c : Nat) : List Int := heldSamples s (s.hpPtr.get ch + BitVec.ofNat 32 c)

/-- `v` is a sum over `lp[0..n-1]` and `hp[0..n-1]` of a channel, with `finish` applied, for values its reads of these
coefficients may return. -/
def SumOfReads (finish : Int → Int) (s : State) (ch : Fin 4) (v : Option Int)
    (sum : (Nat → Int) → (Nat → Int) → Int) : Prop :=
  ∃ lp hp : Nat → Int, (∀ c, c < chanCount s ch → lp c ∈ heldLow s ch c ∧ hp c ∈ heldHigh s ch c) ∧
    v = some (finish (sum lp hp))

/-- RR[ch] of `t` is the row R113 to R115 give from the coefficients of `s`, `finish` applied to every pre-halving
sum. -/
def SynthesizedRow (finish : Int → Int) (s t : State) (ch : Fin 4) : Prop :=
  let n := chanCount s ch
  let row := t.rr.get ch
  row.length = 2 * n ∧
    (SumOfReads finish s ch row[0]? (fun lp hp => rd8 (11 * lp 0 - 4 * lp 1 + lp 2) + hp 0) ∧
      SumOfReads finish s ch row[1]? (fun lp hp => rd8 (5 * lp 0 + 4 * lp 1 - lp 2) - hp 0)) ∧
    (∀ c, 1 ≤ c → c + 2 ≤ n →
      SumOfReads finish s ch row[2 * c]? (fun lp hp => rd8 (lp (c - 1) - lp (c + 1)) + lp c + hp c) ∧
        SumOfReads finish s ch row[2 * c + 1]? (fun lp hp => rd8 (lp (c + 1) - lp (c - 1)) + lp c - hp c)) ∧
    (SumOfReads finish s ch row[2 * (n - 1)]?
        (fun lp hp => rd8 (5 * lp (n - 1) + 4 * lp (n - 2) - lp (n - 3)) + hp (n - 1)) ∧
      SumOfReads finish s ch row[2 * (n - 1) + 1]?
        (fun lp hp => rd8 (11 * lp (n - 1) - 4 * lp (n - 2) + lp (n - 3)) - hp (n - 1)))

/-! ### A running strip -/

/-- The first `n` elements of a row hold values, all from `lo` to `hi`. -/
def RowIn (row : Row) (n : Nat) (lo hi : Int) : Prop :=
  n ≤ row.length ∧ ∀ i, i < n → lo ≤ elem row i ∧ elem row i ≤ hi

/-- The least value of a rescaled sample (R23, R132). -/
def sampleLo (s : State) : Int := if scwOutsign s.scw then -(2 ^ (pOut s - 1)) else 0

/-- The greatest value of a rescaled sample (R23, R132). -/
def sampleHi (s : State) : Int := if scwOutsign s.scw then 2 ^ (pOut s - 1) - 1 else 2 ^ pOut s - 1

/-- The row pointers are where R66 and R51 say. -/
def PointersPlaced (s : State) : Prop :=
  s.outPtr = s.outBase + s.row.setWidth 32 * s.outPitch ∧
    ∀ ch, s.lpPtr.get ch = (if inUse s ch then s.lpBase.get ch + s.row.setWidth 32 * s.lpPitch.get ch else s.lpBase.get ch) ∧
      s.hpPtr.get ch = (if inUse s ch then s.hpBase.get ch + s.row.setWidth 32 * s.hpPitch.get ch else s.hpBase.get ch)

/-- What the stages before STAGE have left in the row buffers (R22 to R26). -/
def RowsReady (s : State) : Prop :=
  (0 < s.stage.toNat → ∀ ch, inUse s ch = true → RowIn (s.rr.get ch) (2 * chanCount s ch) (-32768) 32767) ∧
    (1 < s.stage.toNat → ∀ ch, inUse s ch = true → RowIn (s.wr.get ch) (2 * chanCount s ch) (sampleLo s) (sampleHi s)) ∧
    (2 < s.stage.toNat → RowIn s.cr.k0 (rowWidth s) (sampleLo s) (sampleHi s) ∧
      RowIn s.cr.k1 (2 * chanCount s 1) (sampleLo s) (sampleHi s) ∧
      RowIn s.cr.k2 (2 * chanCount s 1) (sampleLo s) (sampleHi s)) ∧
    (4 < s.stage.toNat → scwAlpha s.scw = true → RowIn s.ar (rowWidth s) 0 (2 ^ pOut s - 1)) ∧
    (5 < s.stage.toNat → slotFilled s.scw 5 = true → RowIn s.sr.k1 (coefCount s) (sampleLo s) (sampleHi s) ∧
      RowIn s.sr.k2 (coefCount s) (sampleLo s) (sampleHi s))

/-- The invariant of a strip: while BUSY the registers are ones START accepts (R53, R214), ROW is below HEIGHT (R29),
STAGE stands on a filled slot (R226), the pointers are placed (R66) and the rows are ready (R26). -/
def StripInv (s : State) : Prop :=
  s.phase = .busy →
    firstViolation s = none ∧ s.row < height s ∧ slotFilled s.scw s.stage = true ∧ PointersPlaced s ∧ RowsReady s

/-- Both memories are in their canonical form. -/
def MemoriesCanonical (s : State) : Prop := s.coef.wf = true ∧ s.out.wf = true

/-- The step does not end in a fault of the model. -/
def NoModelFault (s : State) : Prop := ∀ f, step s ≠ .fault f

/-- How many slots among 3, 4 and 5 are filled: the `m` of R228. -/
def optionalSlots (scw : Word) : Nat :=
  (slotFilled scw 3).toNat + (slotFilled scw 4).toNat + (slotFilled scw 5).toNat

end Sys2Proof.Machine
end

