-- ==== Sys2Proof/WellFormed.lean ====
section
/-! DEFINITION. Which terms are legal: instructions (R91) and parameters (R8, R154). -/

namespace Sys2Proof

/-- The one operand with an illegal value is LIMBITS: "when SYNMODE = LIM the value 0 is illegal" (R91). START
rejects it (R214 check 4), so it never reaches SYN.LIM in a run. -/
def Instr.wf : Instr → Bool
  | .nop | .start | .reset => true
  | .synStd _ => true
  | .synLim _ limbits => limbits ≠ 0
  | .synDsc _ => true
  | .rsc _ | .rscD _ => true
  | .ctPass | .ctDiff | .ctMtxCg601 | .ctMtxVs601 | .ctMtxCg709 | .ctMtxVs709 | .ctAlpha => true
  | .ssPair | .ssCw => true
  | .pkYuyv _ | .pkUyvy _ | .pkV210 _ | .pkV408 _ | .pkAyuv _ | .pkP16 _ => true
  | .pkRg30 | .pkAr10 | .pkAb10 | .pkR210 | .pkDpx0 | .pkB64a _ => true
  | .adv => true

/-- A coefficient is in [-1024, 1023] (R154). -/
def coefficientOk (m : Int) : Bool := -1024 ≤ m && m ≤ 1023

/-- R154: three coefficients and an offset in [0, 255]. -/
def matrixRowOk (r : Config.MatrixRow) : Bool :=
  coefficientOk r.m0 && coefficientOk r.m1 && coefficientOk r.m2 && decide (r.o ≤ 255)

/-- R154. -/
def matrixOk (m : Config.Matrix) : Bool := matrixRowOk m.y && matrixRowOk m.u && matrixRowOk m.v

/-- R8's constraint on MAX_N and R154's on MATRIX_ROM. -/
def paramsOk (p : Config.Params) : Bool :=
  decide (3 ≤ p.maxN) && decide (p.maxN ≤ 65535) &&
    (matrixOk p.matrixRom.cg601 && matrixOk p.matrixRom.vs601 && matrixOk p.matrixRom.cg709 &&
      matrixOk p.matrixRom.vs709)

end Sys2Proof
end

