-- ==== Sys2Proof/Certificates/Slice0/Obligations.lean ====
section
/-! DEFINITION. The statements about this machine, in the order of OBLIGATIONS.json. -/

section Statements

open Sys2Proof Sys2Proof.Machine

/-! ### Encoding and decoding -/

/-- R87, R90, R96: an operation put into any word, with every operand at every value, is what its slot (or CMD)
decodes. -/
def Obligations.EncodedOperationDecodesToItself : Prop :=
  ∀ (i : Instr) (w : Word), decode (siteOf i) (encodeInto i w) = .ok i

/-- R90, R96: whatever a slot (or CMD) decodes belongs there and owns bits that already stand in the word. -/
def Obligations.DecodedOperationOwnsItsBits : Prop :=
  ∀ (site : Site) (w : Word) (i : Instr), decode site w = .ok i → siteOf i = site ∧ encodeInto i w = w

/-- R95: "at most one row matches". -/
def Obligations.AtMostOneRowMatches : Prop :=
  opTable.Pairwise fun r q => ∀ (site : Site) (w : Word), r.hit site w = true → q.hit site w = false

/-- R87 and R96, the column "in words", slot by slot, with the operand fields of R90; for slot 6 with R97's codes. -/
def Obligations.WordsDecodeByTheirFields : Prop :=
  ∀ w : Word,
    (decode .cmd w =
      if w = 0x00000000 then .ok .nop else if w = 0x00000001 then .ok .start else if w = 0x00000002 then .ok .reset
      else .error .invalidCommand) ∧
    (decode (.slot 0) w =
      if scwSynmode w = 0 then .ok (.synStd (w.getLsbD 3))
      else if scwSynmode w = 1 then .ok (.synLim (w.getLsbD 3) (w.extractLsb' 4 4))
      else if scwSynmode w = 2 then .ok (.synDsc (w.getLsbD 2)) else .error .emptySlot) ∧
    (decode (.slot 1) w = if w.getLsbD 8 then .ok (.rscD (w.getLsbD 15)) else .ok (.rsc (w.getLsbD 15))) ∧
    (decode (.slot 2) w = if w.getLsbD 9 then .ok .ctDiff else .ok .ctPass) ∧
    (decode (.slot 3) w =
      if w.getLsbD 9 = true ∧ w.getLsbD 23 = false then
        (if scwMatrix w = 0 then .ok .ctMtxCg601 else if scwMatrix w = 1 then .ok .ctMtxVs601
          else if scwMatrix w = 2 then .ok .ctMtxCg709 else .ok .ctMtxVs709)
      else .error .emptySlot) ∧
    (decode (.slot 4) w = if w.getLsbD 11 then .ok .ctAlpha else .error .emptySlot) ∧
    (decode (.slot 5) w =
      if w.getLsbD 10 = false ∧ w.extractLsb' 20 4 = 1 then (if w.getLsbD 14 then .ok .ssCw else .ok .ssPair)
      else .error .emptySlot) ∧
    (decode (.slot 6) w =
      match formatOf (scwFormat w) with
      | some .yuyv => .ok (.pkYuyv (w.getLsbD 10))
      | some .uyvy => .ok (.pkUyvy (w.getLsbD 10))
      | some .v210 => .ok (.pkV210 (w.getLsbD 10))
      | some .v408 => .ok (.pkV408 (w.getLsbD 11))
      | some .ayuv => .ok (.pkAyuv (w.getLsbD 11))
      | some .p16 => .ok (.pkP16 (w.getLsbD 11))
      | some .rg30 => .ok .pkRg30
      | some .ar10 => .ok .pkAr10
      | some .ab10 => .ok .pkAb10
      | some .r210 => .ok .pkR210
      | some .dpx0 => .ok .pkDpx0
      | some .b64a => .ok (.pkB64a (w.getLsbD 11))
      | none => .error .emptySlot) ∧
    decode (.slot 7) w = .ok .adv

/-- R228: the four strip control words whose per-row sequence the spec writes out. -/
def Obligations.SpecWordsDisassemble : Prop :=
  disassemble 0x00100400 = [.synStd false, .rsc false, .ctPass, .pkYuyv true, .adv] ∧
  disassemble 0x00900A00 = [.synStd false, .rsc false, .ctDiff, .ctAlpha, .pkB64a true, .adv] ∧
  disassemble 0x001140A9 = [.synLim true 10, .rsc false, .ctPass, .ssCw, .pkUyvy false, .adv] ∧
  disassemble 0x00122200 = [.synStd false, .rsc false, .ctDiff, .ctMtxCg709, .ssPair, .pkV210 false, .adv]

/-- R91, R95, R146, R171: the slots a strip control word fills once the START checks have passed, and that every
operation in them is well formed. -/
def Obligations.CheckedWordFillsItsSlots : Prop :=
  ∀ s : State, firstViolation s = none →
    slotFilled s.scw 0 = true ∧ slotFilled s.scw 1 = true ∧ slotFilled s.scw 2 = true ∧ slotFilled s.scw 6 = true ∧
    slotFilled s.scw 7 = true ∧
    slotFilled s.scw 3 = (scwSrc s.scw && !scwIsRgb s.scw) ∧
    slotFilled s.scw 4 = scwAlpha s.scw ∧
    slotFilled s.scw 5 = (scwIs422 s.scw && !scwSrc422 s.scw) ∧
    ∀ (k : BitVec 3) (i : Instr), decode (.slot k) s.scw = .ok i → i.wf = true

/-! ### One step -/

/-- R226: while BUSY, with nothing to be done from outside, a step is the operation of slot STAGE, and after it STAGE
is the smallest filled slot greater than STAGE, unless the operation was ADV or raised a fault. -/
def Obligations.StepRunsTheOperationOfItsSlot : Prop :=
  ∀ (s u : State) (i : Instr),
    ((s.inputs = [] ∧ u = s) ∨ ∃ rest, s.inputs = .run :: rest ∧ u = { s with inputs := rest }) →
    u.phase = .busy → decode (.slot u.stage) u.scw = .ok i →
      step s = match exec i u with
        | .next t => .next (if i = .adv ∨ t.phase ≠ .busy then t else { t with stage := nextSlot t.scw t.stage })
        | .fault f => .fault f
        | .refused r => .refused r

/-- R34, R212: the host's write of a command word to CMD is one execution of that command. -/
def Obligations.StepRunsTheCommandWritten : Prop :=
  ∀ (s : State) (rest : List Input) (w : Word) (i : Instr),
    s.inputs = .write .word 0x04 w :: rest → decode .cmd w = .ok i → step s = exec i { s with inputs := rest }

/-- R226: "the smallest filled slot greater than STAGE". -/
def Obligations.NextSlotIsTheSmallestFilled : Prop :=
  ∀ (scw : Word) (stage : BitVec 3), stage < 7 →
    stage < nextSlot scw stage ∧ slotFilled scw (nextSlot scw stage) = true ∧
      ∀ k : BitVec 3, stage < k → slotFilled scw k = true → nextSlot scw stage ≤ k

/-- R258: outside BUSY the orchestrator does nothing; and R106's WAIT goes on until STATE is DONE or FAULT. -/
def Obligations.OrchestratorIsQuiescentOutsideBusy : Prop :=
  (∀ s : State, s.phase ≠ .busy → s.inputs = [] → step s = .next s) ∧
  (∀ (s : State) (rest : List Input), s.phase ≠ .busy → s.inputs = .run :: rest →
    step s = .next { s with inputs := rest }) ∧
  (∀ (s : State) (rest : List Input), s.inputs = .wait :: rest →
    (s.phase = .done ∨ s.phase = .fault → step s = .next { s with inputs := rest, rdata := statusWord s }) ∧
    (s.phase = .idle → step s = .next s) ∧
    (s.phase = .busy → ∀ t, step s = .next t → t.inputs = s.inputs))

/-! ### Commands -/

/-- R211: "Legal in every state; changes no state, sets no flag (not even WRERR), raises no fault". -/
def Obligations.NopChangesNothing : Prop :=
  decode .cmd 0x00000000 = .ok .nop ∧ ∀ s : State, exec .nop s = .next s

/-- R213: what START does in each state; `firstViolation` is R214's first failing check (its own statement below). The
model's records of what the host wrote during an earlier strip are emptied (R78 "START is an acquire"; assumptions 11
and 12). -/
def Obligations.StartFollowsItsRule : Prop :=
  ∀ s : State,
    (s.phase = .busy ∨ s.phase = .fault → exec .start s = .next { s with wrerr := true }) ∧
    (s.phase = .idle ∨ s.phase = .done →
      (∀ v, firstViolation s = some v → exec .start s = .next { s with
          row := 0, stage := 0, phase := .fault, faultRec := ⟨faultByte v.code, v.ch, v.buf, 0⟩ }) ∧
      (firstViolation s = none → ∃ t, exec .start s = .next t ∧
          t = { s with
            row := 0, stage := 0, phase := t.phase, outPtr := s.outBase, lpPtr := s.lpBase, hpPtr := s.hpBase,
            rr := t.rr, wr := t.wr, cr := t.cr, sr := t.sr, ar := t.ar, overwritten := [], hostOut := [] } ∧
          (height s = 0 → t.phase = .done) ∧ (height s ≠ 0 → t.phase = .busy) ∧ SameMemories s t))

/-- R214, checks 2 to 9 written out on the register fields, in their order. -/
def Obligations.StartChecksAreMadeInOrder : Prop :=
  ∀ s : State,
    let fmt := (s.scw.extractLsb' 16 8).toNat
    let n := (s.roi.extractLsb' 0 16).toNat
    let src := s.scw.getLsbD 9
    let src422 := s.scw.getLsbD 10
    let alpha := s.scw.getLsbD 11
    let pint := (s.prec.extractLsb' 0 5).toNat
    let pout := (s.prec.extractLsb' 8 5).toNat
    let nc : Fin 4 → Nat := fun ch => if src422 = true ∧ (ch = 1 ∨ ch = 2) then n / 2 else n
    let pitchFails : Fin 4 → Bool := fun ch => decide (ch.val < 3 ∨ alpha = true) && decide ((s.lpPitch.get ch).toNat < nc ch)
    let highFails : Fin 4 → Bool := fun ch => decide (ch.val < 3 ∨ alpha = true) && decide ((s.hpPitch.get ch).toNat < nc ch)
    let rowbytes :=
      if fmt = 0x10 ∨ fmt = 0x11 then 4 * n
      else if fmt = 0x12 then 2 * n / 6 * 16
      else if fmt = 0x90 then 16 * n
      else if fmt = 0x50 then 2 * (2 * n + 2 * (2 * nc 1) + if alpha then 2 * n else 0)
      else 8 * n
    firstViolation s =
      if fmt ∉ [0x10, 0x11, 0x12, 0x20, 0x21, 0x50, 0x80, 0x81, 0x82, 0x83, 0x84, 0x90] then some ⟨.cvFormat, 0, 0⟩
      else if n < 3 ∨ s.params.maxN < n ∨ (src422 = true ∧ (n % 2 = 1 ∨ n < 6)) then some ⟨.cvRoi, 0, 0⟩
      else if s.scw.extractLsb' 24 8 ≠ 0 ∨ s.scw.extractLsb' 0 2 = 3 ∨
          (s.scw.extractLsb' 0 2 = 1 ∧ s.scw.extractLsb' 4 4 = 0) ∨
          (s.scw.getLsbD 15 = true ∧ ¬(fmt = 0x50 ∧ src = false ∧ alpha = false)) ∨
          pint < 8 ∨ 16 < pint ∨ pout ∉ [8, 10, 16] ∨ s.prec.extractLsb' 5 3 ≠ 0 ∨ s.prec.extractLsb' 13 19 ≠ 0 ∨
          (src = true ∧ s.diffoff.extractLsb' 18 14 ≠ 0) ∨
          (alpha = true ∧ (s.alphaDc.extractLsb' 16 16 ≠ 0 ∨ s.alphaGain.extractLsb' 16 16 ≠ 0 ∨
            s.alphaScale.extractLsb' 5 27 ≠ 0)) then some ⟨.cvField, 0, 0⟩
      else if (src = true ∧ src422 = true) ∨ (s.scw.getLsbD 23 = true ∧ src = false) ∨
          (src422 = true ∧ (fmt = 0x20 ∨ fmt = 0x21)) then some ⟨.cvShape, 0, 0⟩
      else if fmt = 0x12 ∧ n % 3 ≠ 0 then some ⟨.cvAlign, 0, 0⟩
      else if (fmt ∈ [0x10, 0x11, 0x20, 0x21] ∧ pout ≠ 8) ∨ (fmt ∈ [0x12, 0x80, 0x81, 0x82, 0x83, 0x84] ∧ pout ≠ 10) then
        some ⟨.pmDepth, 0, 0⟩
      else if pitchFails 0 then some ⟨.cvPitch, 0, 1⟩
      else if highFails 0 then some ⟨.cvPitch, 0, 2⟩
      else if pitchFails 1 then some ⟨.cvPitch, 1, 1⟩
      else if highFails 1 then some ⟨.cvPitch, 1, 2⟩
      else if pitchFails 2 then some ⟨.cvPitch, 2, 1⟩
      else if highFails 2 then some ⟨.cvPitch, 2, 2⟩
      else if pitchFails 3 then some ⟨.cvPitch, 3, 1⟩
      else if highFails 3 then some ⟨.cvPitch, 3, 2⟩
      else if s.outPitch.toNat < rowbytes then some ⟨.cvPitch, 0, 3⟩
      else none

/-- R216, R270, R56, R57: RESET and the hardware reset put every register at its reset value from every state and
touch neither memory, but for the bytes of a row that a PK operation was packing: each of those is what it was or its
packed value (U7; the model's choice of when a PK operation can be cut is assumption 8), and anything where the host has
written the byte too (R275, assumption 12). -/
def Obligations.ResetRestoresTheResetState : Prop :=
  ∀ (s : State) (rest : List Input),
    let after := fun (u t : State) =>
      t = { State.reset with
        rr := t.rr, wr := t.wr, cr := t.cr, sr := t.sr, ar := t.ar, coef := u.coef, out := t.out, bus := u.bus,
        inputs := u.inputs, rdata := u.rdata, overwritten := u.overwritten, hostOut := u.hostOut,
        freeCount := t.freeCount, params := u.params } ∧
      (∀ a, coefSample t a = coefSample u a) ∧
      (¬(u.phase = .busy ∧ u.stage = 6) → ∀ a, outByte t a = outByte u a) ∧
      ∀ a, outByte t a = outByte u a ∨
        ∃ i bytes, decode (.slot 6) u.scw = .ok i ∧ packedBytes i u = .ok bytes ∧
          (bytes[distance u.outPtr a]? = some (outByte t a) ∨
            distance u.outPtr a < bytes.length ∧ a.toNat ∈ u.hostOut)
    (∃ t, exec .reset s = .next t ∧ after s t) ∧
    (s.inputs = .hardReset :: rest → ∃ t, step s = .next t ∧ after { s with inputs := rest } t)

/-- R86, R104: an invalid command word is the fault CV_CMD in IDLE and DONE, and is ignored with WRERR in BUSY and
FAULT. -/
def Obligations.InvalidCommandWord : Prop :=
  ∀ (s : State) (rest : List Input) (w : Word), s.inputs = .write .word 0x04 w :: rest → 3 ≤ w.toNat →
    (s.phase = .idle ∨ s.phase = .done → step s = .next { s with
        inputs := rest, row := 0, stage := 0, phase := .fault, faultRec := ⟨0x10, 0, 0, 0⟩ }) ∧
    (s.phase = .busy ∨ s.phase = .fault → step s = .next { s with inputs := rest, wrerr := true })

/-! ### Registers -/

/-- R31 to R52: what a word read at each offset of the window returns, and that it changes nothing else. -/
def Obligations.RegisterReadsReturnTheirRegister : Prop :=
  ∀ (s : State) (rest : List Input) (offset : BitVec 8), s.inputs = .read .word offset :: rest → offset.toNat % 4 = 0 →
    ∃ v, step s = .next { s with inputs := rest, rdata := v } ∧
      (offset = 0x00 → v = 0x49485350) ∧ (offset = 0x04 → v = 0) ∧ (offset = 0x08 → v = statusWord s) ∧
      (offset = 0x0C → v = faultWord s) ∧ (offset = 0x10 → v = s.irqen) ∧ (offset = 0x14 → v = s.scw) ∧
      (offset = 0x18 → v = s.prec) ∧ (offset = 0x1C → v = s.roi) ∧ (offset = 0x20 → v = s.diffoff) ∧
      (offset = 0x24 → v = s.alphaDc) ∧ (offset = 0x28 → v = s.alphaGain) ∧ (offset = 0x2C → v = s.alphaScale) ∧
      (offset = 0x30 → v = s.outBase) ∧ (offset = 0x34 → v = s.outPitch) ∧
      (∀ ch : Fin 4, (offset.toNat = 0x40 + 4 * ch.val → v = s.lpBase.get ch) ∧
        (offset.toNat = 0x50 + 4 * ch.val → v = s.hpBase.get ch) ∧
        (offset.toNat = 0x60 + 4 * ch.val → v = s.lpPitch.get ch) ∧
        (offset.toNat = 0x70 + 4 * ch.val → v = s.hpPitch.get ch) ∧
        (offset.toNat = 0x90 + 4 * ch.val → v = s.lpPtr.get ch) ∧
        (offset.toNat = 0xA0 + 4 * ch.val → v = s.hpPtr.get ch)) ∧
      (offset = 0x80 → v = s.row.setWidth 32) ∧ (offset = 0x84 → v = s.outPtr) ∧
      (offset ∈ [0x38, 0x3C, 0x88, 0x8C] ∨ 0xB0 ≤ offset.toNat → v = 0)

/-- R35, R36, R256: the fields of STATUS and of FAULT and the level of the completion line. -/
def Obligations.StatusAndFaultFields : Prop :=
  ∀ s : State,
    (statusWord s).extractLsb' 0 2 = (match s.phase with | .idle => 0 | .busy => 1 | .done => 2 | .fault => 3) ∧
    (statusWord s).extractLsb' 2 2 = 0 ∧ (statusWord s).getLsbD 4 = s.wrerr ∧ (statusWord s).getLsbD 5 = irqLine s ∧
    (statusWord s).extractLsb' 6 2 = 0 ∧ (statusWord s).extractLsb' 8 3 = s.stage ∧
    (statusWord s).extractLsb' 11 21 = 0 ∧
    (irqLine s = true ↔
      (s.phase = .done ∧ s.irqen.getLsbD 0 = true) ∨ (s.phase = .fault ∧ s.irqen.getLsbD 1 = true)) ∧
    (faultWord s).extractLsb' 0 8 = s.faultRec.code ∧ (faultWord s).extractLsb' 8 2 = s.faultRec.ch ∧
    (faultWord s).extractLsb' 10 2 = s.faultRec.buf ∧ (faultWord s).extractLsb' 12 4 = 0 ∧
    (faultWord s).extractLsb' 16 16 = s.faultRec.row

/-- R53 (and R31's "stores all 32 bits exactly as written"): a write to a descriptor register is ignored with WRERR
while BUSY, is performed in every other state and changes no other register, and no step of a running strip that
leaves it running changes a descriptor register. -/
def Obligations.DescriptorsAreFrozenWhileBusy : Prop :=
  (∀ (s : State) (rest : List Input) (offset : BitVec 8) (r : Reg) (w : Word),
    s.inputs = .write .word offset w :: rest → regAt offset = some r → isDescriptor r = true →
      (s.phase = .busy → step s = .next { s with inputs := rest, wrerr := true }) ∧
      (s.phase ≠ .busy → ∃ t, step s = .next t ∧ readReg t r = w ∧ (∀ q, q ≠ r → readReg t q = readReg s q) ∧
        SameMemories s t ∧
        t = { s with
          inputs := rest, scw := t.scw, prec := t.prec, roi := t.roi, diffoff := t.diffoff, alphaDc := t.alphaDc,
          alphaGain := t.alphaGain, alphaScale := t.alphaScale, outBase := t.outBase, outPitch := t.outPitch,
          lpBase := t.lpBase, hpBase := t.hpBase, lpPitch := t.lpPitch, hpPitch := t.hpPitch })) ∧
  (∀ s t : State, s.phase = .busy → step s = .next t → t.phase ≠ .idle →
    SameDescriptors { s with irqen := t.irqen } t)

/-- R31, R37, R52: a write to IRQEN is performed in every state; a write to a read-only register or at a reserved
offset is ignored and sets nothing; a read or write that is not of an aligned word is refused (R31 "a model refuses
them", U28, assumption 13). -/
def Obligations.OtherRegisterAccesses : Prop :=
  ∀ (s : State) (rest : List Input) (width : Width) (offset : BitVec 8),
    (∀ w, s.inputs = .write width offset w :: rest →
      (width = .word → offset = 0x10 → step s = .next { s with inputs := rest, irqen := w }) ∧
      (width = .word → offset.toNat % 4 = 0 →
        (offset ∈ [0x00, 0x08, 0x0C, 0x38, 0x3C] ∨ 0x80 ≤ offset.toNat) → step s = .next { s with inputs := rest }) ∧
      (width ≠ .word ∨ offset.toNat % 4 ≠ 0 → step s = .refused .registerAccess)) ∧
    (s.inputs = .read width offset :: rest → width ≠ .word ∨ offset.toNat % 4 ≠ 0 →
      step s = .refused .registerAccess)

/-- R56: what every register reads, and STATE, STAGE, ROW, WRERR and the completion line, right after power-on, after the
RESET command and after a hardware reset, from every state. -/
def Obligations.ResetValuesReadBack : Prop :=
  let atReset := fun (t : State) =>
    (∀ r : Reg, readReg t r = if r = .id then 0x49485350 else 0) ∧ t.phase = .idle ∧ t.stage = 0 ∧ t.row = 0 ∧
      t.wrerr = false ∧ irqLine t = false
  atReset State.reset ∧ (∀ s : State, ∃ t, exec .reset s = .next t ∧ atReset t) ∧
    ∀ (s : State) (rest : List Input), s.inputs = .hardReset :: rest → ∃ t, step s = .next t ∧ atReset t

/-- R30: WRERR is set only by a write that was ignored because of the state the block was in, and is cleared only by
a reset. -/
def Obligations.WrerrIsSticky : Prop :=
  ∀ s t : State, step s = .next t →
    (s.wrerr = true → t.wrerr = false →
      s.inputs.head? = some .hardReset ∨ s.inputs.head? = some (.write .word 0x04 0x00000002)) ∧
    (s.wrerr = false → t.wrerr = true → ∃ offset w, s.inputs.head? = some (.write .word offset w) ∧
      ((s.phase = .busy ∧ ∃ r, regAt offset = some r ∧ isDescriptor r = true) ∨
        (offset = 0x04 ∧ (s.phase = .busy ∨ s.phase = .fault) ∧ (w = 0x00000001 ∨ 3 ≤ w.toNat))))

/-- R78, R274, R275, U9: what the host writes to the memories takes effect in every state. Of a sample written while
BUSY a read of the block may give the new value and every value it could give before; of a byte of OUT written while BUSY
only the content is open, and that only where the block has packed it or packs it later: the PK operation goes on, and
every byte of its row that the host has not written holds its packed value. How open values are chosen is the model's
(assumptions 11 and 12). -/
def Obligations.HostMemoryWrites : Prop :=
  (∀ (s : State) (rest : List Input) (a : Word) (v : Sample), s.inputs = .coefWrite a v :: rest →
    ∃ t, step s = .next t ∧ t = { s with inputs := rest, coef := t.coef, overwritten := t.overwritten } ∧
      (∀ b, coefSample t b = if b = a then v.toInt else coefSample s b) ∧ (∀ b, outByte t b = outByte s b) ∧
      (s.phase = .busy → ∀ b, heldSamples t b = if b = a then v.toInt :: heldSamples s b else heldSamples s b) ∧
      (s.phase ≠ .busy → t.overwritten = s.overwritten)) ∧
  (∀ (s : State) (rest : List Input) (a : Word) (v : Byte), s.inputs = .outWrite a v :: rest →
    ∃ t, step s = .next t ∧
      t = { s with inputs := rest, out := t.out, hostOut := t.hostOut, freeCount := t.freeCount } ∧
      (∀ b, b ≠ a → outByte t b = outByte s b) ∧ (∀ b, coefSample t b = coefSample s b) ∧
      (s.phase ≠ .busy ∨ inPackedRows s a = false → outByte t a = v) ∧
      (s.phase = .busy → ∀ b, b ∈ t.hostOut ↔ b = a.toNat ∨ b ∈ s.hostOut) ∧
      (s.phase ≠ .busy → t.hostOut = s.hostOut)) ∧
  ∀ (i : Instr) (s : State) (bytes : List Byte), siteOf i = .slot 6 → packedBytes i s = .ok bytes →
    WritesAnswered s bytes.length →
    ∃ t, exec i s = .next t ∧ OnlyRowWritten s t bytes.length ∧
      ∀ k, k < bytes.length → (s.outPtr + BitVec.ofNat 32 k).toNat ∉ s.hostOut → bytes[k]? = some (rowByte s t k)

/-! ### Arithmetic -/

/-- R11 to R14: the shift is a floor, `rd8` rounds with the bias +4 for every sign, `d2` halves, and a clamp
saturates without altering a value already in range. -/
def Obligations.ArithmeticPrimitives : Prop :=
  (∀ (x : Int) (k : Nat), asr x k * 2 ^ k ≤ x ∧ x < (asr x k + 1) * 2 ^ k ∧ shl x k = x * 2 ^ k) ∧
  (∀ x : Int, 8 * rd8 x ≤ x + 4 ∧ x + 4 < 8 * rd8 x + 8) ∧
  (∀ x : Int, 2 * d2 x false ≤ x ∧ x ≤ 2 * d2 x false + 1 ∧ x ≤ 2 * d2 x true ∧ 2 * d2 x true ≤ x + 1) ∧
  (∀ x lo hi : Int, (x < lo → clamp x lo hi = lo) ∧ (lo ≤ x → hi < x → clamp x lo hi = hi) ∧
    (lo ≤ x → x ≤ hi → clamp x lo hi = x)) ∧
  (∀ x : Int, clamp16 x = clamp x (-32768) 32767) ∧ (∀ (x : Int) (b : Nat), clampu x b = clamp x 0 (2 ^ b - 1)) ∧
  ∀ (x : Int) (b : Nat), 1 ≤ b → clamps x b = clamp x (-(2 ^ (b - 1))) (2 ^ (b - 1) - 1)

/-! ### Synthesis -/

/-- R110, R112 to R117: SYN.STD completes and writes to RR of every channel in use the halved clamped sums. Each read
of a coefficient gives the sample's value, or one it had before a write made while BUSY (R78, R274, U9). -/
def Obligations.SynStdResult : Prop :=
  ∀ (div2rnd : Bool) (s : State), ChannelsWide s → ReadsAnswered s →
    ∃ t, exec (.synStd div2rnd) s = .next t ∧ t = { s with rr := t.rr, freeCount := t.freeCount } ∧ SameMemories s t ∧
      (∀ ch, inUse s ch = true → SynthesizedRow (fun x => d2 (clamp16 x) div2rnd) s t ch) ∧
      ∀ ch, inUse s ch = false → t.rr.get ch = s.rr.get ch

/-- R110, R112 to R116, R118, R78: SYN.LIM, for every value of LIMBITS (R91 makes 1 to 15 legal). -/
def Obligations.SynLimResult : Prop :=
  ∀ (div2rnd : Bool) (limbits : BitVec 4) (s : State), ChannelsWide s → ReadsAnswered s →
    ∃ t, exec (.synLim div2rnd limbits) s = .next t ∧ t = { s with rr := t.rr, freeCount := t.freeCount } ∧ SameMemories s t ∧
      (∀ ch, inUse s ch = true →
        SynthesizedRow (fun x => clampu (d2 (clamp16 x) div2rnd) limbits.toNat) s t ch) ∧
      ∀ ch, inUse s ch = false → t.rr.get ch = s.rr.get ch

/-- R110, R112 to R116, R119, R78: SYN.DSC. -/
def Obligations.SynDscResult : Prop :=
  ∀ (dshift : Bool) (s : State), ChannelsWide s → ReadsAnswered s →
    ∃ t, exec (.synDsc dshift) s = .next t ∧ t = { s with rr := t.rr, freeCount := t.freeCount } ∧ SameMemories s t ∧
      (∀ ch, inUse s ch = true →
        SynthesizedRow (fun x => clamp16 (clamp16 x * if dshift then 2 else 1)) s t ch) ∧
      ∀ ch, inUse s ch = false → t.rr.get ch = s.rr.get ch

/-- R121: what a SYN operation writes is in the range R121 gives for it. -/
def Obligations.SynthesizedValuesAreInRange : Prop :=
  ∀ (s t : State) (ch : Fin 4) (x : Int), s.phase = .busy → t.phase = .busy → inUse s ch = true → x ∈ t.rr.get ch →
    (∀ r, exec (.synStd r) s = .next t → -16384 ≤ x ∧ x ≤ 16384) ∧
    (∀ r bits, exec (.synLim r bits) s = .next t → 0 ≤ x ∧ x ≤ 2 ^ bits.toNat - 1 ∧ x ≤ 32767) ∧
    (∀ d, exec (.synDsc d) s = .next t → -32768 ≤ x ∧ x ≤ 32767)

/-- R123: a flat lowpass row L with a zero highpass row gives one value at every position; a sample that the host has
written while BUSY must have been L or 0 before too (R78). -/
def Obligations.FlatFieldStaysFlat : Prop :=
  ∀ (s : State) (ch : Fin 4) (L : Int), ChannelsWide s → ReadsAnswered s → inUse s ch = true →
    (∀ c, c < chanCount s ch → (∀ v ∈ heldLow s ch c, v = L) ∧ ∀ v ∈ heldHigh s ch c, v = 0) →
      (∀ r, ∃ t, exec (.synStd r) s = .next t ∧
        t.rr.get ch = List.replicate (2 * chanCount s ch) (d2 (clamp16 L) r)) ∧
      (∀ r bits, ∃ t, exec (.synLim r bits) s = .next t ∧
        t.rr.get ch = List.replicate (2 * chanCount s ch) (clampu (d2 (clamp16 L) r) bits.toNat)) ∧
      (∀ d, ∃ t, exec (.synDsc d) s = .next t ∧
        t.rr.get ch = List.replicate (2 * chanCount s ch) (clamp16 (clamp16 L * if d then 2 else 1)))

/-- R120, R122: "hp[c] appears only in E(c) and O(c), so a change of one highpass coefficient changes at most RR[ch][2c]
and RR[ch][2c+1]", and no other channel. -/
def Obligations.HighpassCoefficientIsLocal : Prop :=
  ∀ (s s' t t' : State) (i : Instr) (ch : Fin 4) (c : Nat), siteOf i = .slot 0 → s.phase = .busy → t.phase = .busy →
    t'.phase = .busy → s' = { s with coef := s'.coef } → exec i s = .next t → exec i s' = .next t' →
    (∀ k j, inUse s k = true → j < chanCount s k → lowpass s' k j = lowpass s k j ∧
      (k = ch ∧ j = c ∨ highpass s' k j = highpass s k j)) →
    ∀ k j, ¬(k = ch ∧ j / 2 = c) → (t'.rr.get k)[j]? = (t.rr.get k)[j]?

/-- R246, R248: a SYN operation one of whose reads the platform answers with an error raises CV_BUS for the channel and
buffer of such a read, and writes nothing; which failing read is reported is free (U15, assumption 9), and that RR keeps
its rows is the model's choice (U16, assumption 28). A channel of one
or two coefficients, which R124 says never reaches a SYN operation, stops the model by name (assumption 14). -/
def Obligations.SynBusErrorRaisesCvBus : Prop :=
  ∀ (i : Instr) (s : State), siteOf i = .slot 0 → s.phase = .busy →
    (ChannelsWide s → ¬ReadsAnswered s → ∃ t ch buf, exec i s = .next t ∧
      t = { s with phase := .fault, faultRec := ⟨0x17, BitVec.ofFin ch, buf, s.row⟩, freeCount := t.freeCount } ∧
      SameMemories s t ∧ inUse s ch = true ∧
      ((buf = 1 ∧ ∃ c, c < chanCount s ch ∧ coefFails s (s.lpPtr.get ch + BitVec.ofNat 32 c) = true) ∨
        (buf = 2 ∧ ∃ c, c < chanCount s ch ∧ coefFails s (s.hpPtr.get ch + BitVec.ofNat 32 c) = true))) ∧
    ((∃ ch, inUse s ch = true ∧ 0 < chanCount s ch ∧ chanCount s ch < 3) → exec i s = .fault .narrowRow)

/-! ### Rescaling -/

/-- R130, R132, R133: RSC completes and writes the shifted, saturated value of every element to WR. -/
def Obligations.RscResult : Prop :=
  ∀ (outsign : Bool) (s : State), RowsHeld s s.rr →
    ∃ t, exec (.rsc outsign) s = .next t ∧ t = { s with wr := t.wr } ∧ SameMemories s t ∧
      (∀ ch, inUse s ch = true → (t.wr.get ch).length = 2 * chanCount s ch ∧
        ∀ i, i < 2 * chanCount s ch → (t.wr.get ch)[i]? = some (
          let v := elem (s.rr.get ch) i
          let shifted := if pOut s < pInt s then asr v (pInt s - pOut s) else v * 2 ^ (pOut s - pInt s)
          if outsign then clamps shifted (pOut s) else clampu shifted (pOut s))) ∧
      ∀ ch, inUse s ch = false → t.wr.get ch = s.wr.get ch

/-- R130, R132, R136, U1: RSC.D completes; with a shift s of at least 2 every element is that of some draw r in
0..2^(s-1)-1, with a smaller shift that of RSC. -/
def Obligations.RscDResult : Prop :=
  ∀ (outsign : Bool) (s : State), RowsHeld s s.rr →
    ∃ t, exec (.rscD outsign) s = .next t ∧ t = { s with wr := t.wr, freeCount := t.freeCount } ∧ SameMemories s t ∧
      (∀ ch, inUse s ch = true → (t.wr.get ch).length = 2 * chanCount s ch ∧
        ∀ i, i < 2 * chanCount s ch →
          let v := elem (s.rr.get ch) i
          let sat := fun x => if outsign then clamps x (pOut s) else clampu x (pOut s)
          (pOut s + 2 ≤ pInt s → ∃ r : Nat, r ≤ 2 ^ (pInt s - pOut s - 1) - 1 ∧
            (t.wr.get ch)[i]? = some (sat (asr (v + r) (pInt s - pOut s)))) ∧
          (pInt s < pOut s + 2 → (t.wr.get ch)[i]? = some (sat (
            if pOut s < pInt s then asr v (pInt s - pOut s) else v * 2 ^ (pOut s - pInt s))))) ∧
      ∀ ch, inUse s ch = false → t.wr.get ch = s.wr.get ch

/-- R134: with equal precisions RSC writes the saturated value, leaves a value of the legal range as it is, and applied
twice gives what it gives once. -/
def Obligations.RscIsIdempotentAtEqualPrecisions : Prop :=
  ∀ (outsign : Bool) (s t u : State), pInt s = pOut s → 1 ≤ pOut s → exec (.rsc outsign) s = .next t →
    exec (.rsc outsign) { t with rr := t.wr } = .next u →
    ∀ ch, inUse s ch = true → u.wr.get ch = t.wr.get ch ∧
      ∀ i, i < 2 * chanCount s ch →
        elem (t.wr.get ch) i =
          (if outsign then clamps (elem (s.rr.get ch) i) (pOut s) else clampu (elem (s.rr.get ch) i) (pOut s)) ∧
        ((if outsign then -(2 ^ (pOut s - 1)) else 0) ≤ elem (s.rr.get ch) i →
          elem (s.rr.get ch) i ≤ (if outsign then 2 ^ (pOut s - 1) - 1 else 2 ^ pOut s - 1) →
          elem (t.wr.get ch) i = elem (s.rr.get ch) i)

/-- R136, R137: an element of RSC.D differs from that of RSC by at most +1, and only when the low s bits of the value
are at least 2^(s-1) + 1. -/
def Obligations.DitherAddsAtMostOne : Prop :=
  ∀ (outsign : Bool) (s t u : State), exec (.rsc outsign) s = .next t → exec (.rscD outsign) s = .next u →
    ∀ ch, inUse s ch = true → ∀ i, i < 2 * chanCount s ch →
      elem (t.wr.get ch) i ≤ elem (u.wr.get ch) i ∧ elem (u.wr.get ch) i ≤ elem (t.wr.get ch) i + 1 ∧
      (elem (u.wr.get ch) i = elem (t.wr.get ch) i ∨
        pOut s + 2 ≤ pInt s ∧ 2 ^ (pInt s - pOut s - 1) + 1 ≤ elem (s.rr.get ch) i % 2 ^ (pInt s - pOut s))

/-! ### Colour -/

/-- R148: CT.PASS copies the three rows. -/
def Obligations.CtPassResult : Prop :=
  ∀ s : State, 2 * chanCount s 0 ≤ s.wr.c0.length → 2 * chanCount s 1 ≤ s.wr.c1.length →
    2 * chanCount s 2 ≤ s.wr.c2.length →
    ∃ t, exec .ctPass s = .next t ∧ t = { s with cr := t.cr } ∧ SameMemories s t ∧
      t.cr.k0 = s.wr.c0.take (2 * chanCount s 0) ∧ t.cr.k1 = s.wr.c1.take (2 * chanCount s 1) ∧
      t.cr.k2 = s.wr.c2.take (2 * chanCount s 2)

/-- R150: CT.DIFF rebuilds R and B and copies G. -/
def Obligations.CtDiffResult : Prop :=
  ∀ s : State, rowWidth s ≤ s.wr.c0.length → rowWidth s ≤ s.wr.c1.length → rowWidth s ≤ s.wr.c2.length →
    ∃ t, exec .ctDiff s = .next t ∧ t = { s with cr := t.cr } ∧ SameMemories s t ∧
      t.cr.k0.length = rowWidth s ∧ t.cr.k1.length = rowWidth s ∧ t.cr.k2.length = rowWidth s ∧
      ∀ i, i < rowWidth s →
        t.cr.k0[i]? = some (clampu (2 * elem s.wr.c1 i + elem s.wr.c0 i - diffOffset s) (pOut s)) ∧
        t.cr.k1[i]? = some (elem s.wr.c0 i) ∧
        t.cr.k2[i]? = some (clampu (2 * elem s.wr.c2 i + elem s.wr.c0 i - diffOffset s) (pOut s))

/-- R154, R155, R157 to R159: each CT.MTX operation applies its own matrix set, all three components of an index from
the three values the index held before. -/
def Obligations.MatrixResults : Prop :=
  ∀ (s : State) (i : Instr) (m : Config.Matrix), ComponentsHeld s (rowWidth s) →
    (i, m) ∈ [(.ctMtxCg601, s.params.matrixRom.cg601), (.ctMtxVs601, s.params.matrixRom.vs601),
      (.ctMtxCg709, s.params.matrixRom.cg709), (.ctMtxVs709, s.params.matrixRom.vs709)] →
    let out := fun (q : Config.MatrixRow) (j : Nat) =>
      clampu (asr (q.m0 * elem s.cr.k0 j + q.m1 * elem s.cr.k1 j + q.m2 * elem s.cr.k2 j + 128) 8 +
        q.o * 2 ^ (pOut s - 8)) (pOut s)
    ∃ t, exec i s = .next t ∧ t = { s with cr := t.cr } ∧ SameMemories s t ∧
      t.cr.k0.length = rowWidth s ∧ t.cr.k1.length = rowWidth s ∧ t.cr.k2.length = rowWidth s ∧
      ∀ j, j < rowWidth s →
        t.cr.k0[j]? = some (out m.y j) ∧ t.cr.k1[j]? = some (out m.u j) ∧ t.cr.k2[j]? = some (out m.v j)

/-- R164: under the default MATRIX_ROM (general knowledge, assumption 21) a neutral colour has U = V = 128 << (W-8). -/
def Obligations.NeutralColourHasNoChroma : Prop :=
  ∀ (s t : State) (i : Instr), s.params.matrixRom = Config.defaultMatrixRom →
    i ∈ [.ctMtxCg601, .ctMtxVs601, .ctMtxCg709, .ctMtxVs709] → 8 ≤ pOut s → exec i s = .next t →
    ∀ j, j < rowWidth s → elem s.cr.k1 j = elem s.cr.k0 j → elem s.cr.k2 j = elem s.cr.k0 j →
      elem t.cr.k1 j = 128 * 2 ^ (pOut s - 8) ∧ elem t.cr.k2 j = 128 * 2 ^ (pOut s - 8)

/-- R160: CT.ALPHA decompands WR[3] into AR; and an input equal to DCoffset gives 0 for every gain and scale. -/
def Obligations.CtAlphaResult : Prop :=
  ∀ s : State, rowWidth s ≤ s.wr.c3.length →
    ∃ t, exec .ctAlpha s = .next t ∧ t = { s with ar := t.ar } ∧ SameMemories s t ∧ t.ar.length = rowWidth s ∧
      ∀ i, i < rowWidth s →
        t.ar[i]? = some (clampu (asr ((elem s.wr.c3 i - alphaDcValue s) * alphaGainValue s) (alphaScaleValue s)) (pOut s)) ∧
        (elem s.wr.c3 i ≤ alphaDcValue s → t.ar[i]? = some 0)

/-! ### Subsampling and packing -/

/-- R171 to R173: SS.PAIR and SS.CW write SR from the full-rate chroma rows and leave CR alone. -/
def Obligations.SubsamplingResults : Prop :=
  ∀ s : State, rowWidth s ≤ s.cr.k1.length → rowWidth s ≤ s.cr.k2.length →
    (∃ t, exec .ssPair s = .next t ∧ t = { s with sr := t.sr } ∧ SameMemories s t ∧
      t.sr.k1.length = coefCount s ∧ t.sr.k2.length = coefCount s ∧
      ∀ j, j < coefCount s →
        t.sr.k1[j]? = some (asr (elem s.cr.k1 (2 * j) + elem s.cr.k1 (2 * j + 1)) 1) ∧
        t.sr.k2[j]? = some (asr (elem s.cr.k2 (2 * j) + elem s.cr.k2 (2 * j + 1)) 1)) ∧
    (∃ t, exec .ssCw s = .next t ∧ t = { s with sr := t.sr } ∧ SameMemories s t ∧
      t.sr.k1.length = coefCount s ∧ t.sr.k2.length = coefCount s ∧
      ∀ j, j < coefCount s →
        let centre := fun (row : Row) =>
          asr ((if j = 0 then elem row 0 else elem row (2 * j - 1)) + 2 * elem row (2 * j) + elem row (2 * j + 1)) 2
        t.sr.k1[j]? = some (centre s.cr.k1) ∧ t.sr.k2[j]? = some (centre s.cr.k2))

/-- R174: for a constant chroma row both subsampling policies give that constant exactly. -/
def Obligations.ConstantChromaStaysConstant : Prop :=
  ∀ (s t : State) (i : Instr) (u v : Int), i = .ssPair ∨ i = .ssCw → exec i s = .next t →
    (∀ j, j < rowWidth s → elem s.cr.k1 j = u ∧ elem s.cr.k2 j = v) →
    t.sr.k1 = List.replicate (coefCount s) u ∧ t.sr.k2 = List.replicate (coefCount s) v

/-- R175, R176, R180, R181: PK.YUYV and PK.UYVY write four bytes per pixel pair, in their two orders. -/
def Obligations.Pack8Bit422Results : Prop :=
  ∀ (src422 : Bool) (s : State), Rows422Held src422 s → RowWritable s (4 * coefCount s) →
    let y := fun j => BitVec.ofInt 8 (elem s.cr.k0 j)
    let u := fun j => BitVec.ofInt 8 (elem (if src422 then s.cr.k1 else s.sr.k1) j)
    let v := fun j => BitVec.ofInt 8 (elem (if src422 then s.cr.k2 else s.sr.k2) j)
    (∃ t, exec (.pkYuyv src422) s = .next t ∧ OnlyRowWritten s t (4 * coefCount s) ∧
      ∀ j, j < coefCount s → rowByte s t (4 * j) = y (2 * j) ∧ rowByte s t (4 * j + 1) = u j ∧
        rowByte s t (4 * j + 2) = y (2 * j + 1) ∧ rowByte s t (4 * j + 3) = v j) ∧
    (∃ t, exec (.pkUyvy src422) s = .next t ∧ OnlyRowWritten s t (4 * coefCount s) ∧
      ∀ j, j < coefCount s → rowByte s t (4 * j) = u j ∧ rowByte s t (4 * j + 1) = y (2 * j) ∧
        rowByte s t (4 * j + 2) = v j ∧ rowByte s t (4 * j + 3) = y (2 * j + 1))

/-- R175, R176, R182: PK.V210 writes four little-endian words per six pixels. -/
def Obligations.PackV210Result : Prop :=
  ∀ (src422 : Bool) (s : State), Rows422Held src422 s → RowWritable s (rowWidth s / 6 * 16) →
    let y := elem s.cr.k0
    let u := elem (if src422 then s.cr.k1 else s.sr.k1)
    let v := elem (if src422 then s.cr.k2 else s.sr.k2)
    ∃ t, exec (.pkV210 src422) s = .next t ∧ OnlyRowWritten s t (rowWidth s / 6 * 16) ∧
      ∀ g, g < rowWidth s / 6 →
        rowLe32 s t (16 * g) = w10 (u (3 * g)) (y (6 * g)) (v (3 * g)) ∧
        rowLe32 s t (16 * g + 4) = w10 (y (6 * g + 1)) (u (3 * g + 1)) (y (6 * g + 2)) ∧
        rowLe32 s t (16 * g + 8) = w10 (v (3 * g + 1)) (y (6 * g + 3)) (u (3 * g + 2)) ∧
        rowLe32 s t (16 * g + 12) = w10 (y (6 * g + 4)) (v (3 * g + 2)) (y (6 * g + 5))

/-- R176, R177, R183, R184: PK.V408 and PK.AYUV write four bytes per pixel, alpha after or before the luma, opaque
when there is no alpha channel. -/
def Obligations.Pack8Bit444Results : Prop :=
  ∀ (alpha : Bool) (s : State), ComponentsHeld s (rowWidth s) → AlphaHeld alpha s → RowWritable s (4 * rowWidth s) →
    pOut s = 8 →
    let y := fun j => BitVec.ofInt 8 (elem s.cr.k0 j)
    let u := fun j => BitVec.ofInt 8 (elem s.cr.k1 j)
    let v := fun j => BitVec.ofInt 8 (elem s.cr.k2 j)
    let a := fun j => if alpha then BitVec.ofInt 8 (elem s.ar j) else 0xFF
    (∃ t, exec (.pkV408 alpha) s = .next t ∧ OnlyRowWritten s t (4 * rowWidth s) ∧
      ∀ j, j < rowWidth s → rowByte s t (4 * j) = u j ∧ rowByte s t (4 * j + 1) = y j ∧
        rowByte s t (4 * j + 2) = v j ∧ rowByte s t (4 * j + 3) = a j) ∧
    (∃ t, exec (.pkAyuv alpha) s = .next t ∧ OnlyRowWritten s t (4 * rowWidth s) ∧
      ∀ j, j < rowWidth s → rowByte s t (4 * j) = a j ∧ rowByte s t (4 * j + 1) = y j ∧
        rowByte s t (4 * j + 2) = u j ∧ rowByte s t (4 * j + 3) = v j)

/-- R176, R178, R185: PK.P16 writes the planes one after another, each sample 16 bits, least significant byte first. -/
def Obligations.PackP16Result : Prop :=
  ∀ (alpha : Bool) (s : State),
    let wd := rowWidth s
    let wc := 2 * chanCount s 1
    let n := 2 * (wd + 2 * wc + if alpha then wd else 0)
    wd ≤ s.cr.k0.length → wc ≤ s.cr.k1.length → wc ≤ s.cr.k2.length → AlphaHeld alpha s → RowWritable s n →
    ∃ t, exec (.pkP16 alpha) s = .next t ∧ OnlyRowWritten s t n ∧
      (∀ i, i < wd → rowLe16 s t (2 * i) = up16 (pOut s) (elem s.cr.k0 i)) ∧
      (∀ i, i < wc → rowLe16 s t (2 * (wd + i)) = up16 (pOut s) (elem s.cr.k1 i)) ∧
      (∀ i, i < wc → rowLe16 s t (2 * (wd + wc + i)) = up16 (pOut s) (elem s.cr.k2 i)) ∧
      (alpha = true → ∀ i, i < wd → rowLe16 s t (2 * (wd + 2 * wc + i)) = up16 (pOut s) (elem s.ar i))

/-- R176, R186 to R190: the five 10-bit RGB packers write one word per pixel; two of them most significant byte first,
one of those two shifted up by two bits. -/
def Obligations.PackRgb10Results : Prop :=
  ∀ s : State, ComponentsHeld s (rowWidth s) → RowWritable s (4 * rowWidth s) →
    let r := elem s.cr.k0
    let g := elem s.cr.k1
    let b := elem s.cr.k2
    let packs := fun (i : Instr) (word : State → State → Nat → Word) (pixel : Nat → Word) =>
      ∃ t, exec i s = .next t ∧ OnlyRowWritten s t (4 * rowWidth s) ∧
        ∀ j, j < rowWidth s → word s t (4 * j) = pixel j
    packs .pkRg30 rowLe32 (fun j => w10 (r j) (g j) (b j)) ∧ packs .pkAr10 rowLe32 (fun j => w10 (b j) (g j) (r j)) ∧
      packs .pkAb10 rowLe32 (fun j => w10 (r j) (g j) (b j)) ∧ packs .pkR210 rowBe32 (fun j => w10 (b j) (g j) (r j)) ∧
      packs .pkDpx0 rowBe32 (fun j => w10 (b j) (g j) (r j) <<< 2)

/-- R176 to R178, R191: PK.B64A writes A, R, G, B, 16 bits each, most significant byte first; alpha 0xFFFF "whatever W
is" when there is no alpha channel. -/
def Obligations.PackB64aResult : Prop :=
  ∀ (alpha : Bool) (s : State), ComponentsHeld s (rowWidth s) → AlphaHeld alpha s → RowWritable s (8 * rowWidth s) →
    ∃ t, exec (.pkB64a alpha) s = .next t ∧ OnlyRowWritten s t (8 * rowWidth s) ∧
      ∀ i, i < rowWidth s →
        rowBe16 s t (8 * i) = (if alpha then up16 (pOut s) (elem s.ar i) else 0xFFFF) ∧
        rowBe16 s t (8 * i + 2) = up16 (pOut s) (elem s.cr.k0 i) ∧
        rowBe16 s t (8 * i + 4) = up16 (pOut s) (elem s.cr.k1 i) ∧
        rowBe16 s t (8 * i + 6) = up16 (pOut s) (elem s.cr.k2 i)

/-- R178, R179, R192: a component that fits its field stands in it unchanged: 8 bits; three times 10 bits with bits 31:30
zero; and W bits shifted up to 16. -/
def Obligations.PackedFieldsHoldTheirValues : Prop :=
  (∀ v : Int, 0 ≤ v → v ≤ 255 → ((BitVec.ofInt 8 v).toNat : Int) = v) ∧
  (∀ a b c : Int, isTen a → isTen b → isTen c →
    ((w10 a b c).toNat : Int) = a + b * 2 ^ 10 + c * 2 ^ 20 ∧ (w10 a b c).extractLsb' 30 2 = 0) ∧
  (∀ (w : Nat) (v : Int), w ≤ 16 → 0 ≤ v → v ≤ 2 ^ w - 1 → ((up16 w v).toNat : Int) = v * 2 ^ (16 - w)) ∧
  ∀ (w : Nat) (v : Int), 1 ≤ w → w ≤ 16 → -(2 ^ (w - 1)) ≤ v → v ≤ 2 ^ (w - 1) - 1 →
    (up16 w v).toInt = v * 2 ^ (16 - w)

/-- R99, R176: the byte list a PK operation builds has exactly ROWBYTES bytes, when its SRC422 and ALPHA are those of
the strip control word that decodes to it. -/
def Obligations.PackedRowHasRowbytesBytes : Prop :=
  ∀ (s : State) (f : Format) (i : Instr) (bytes : List Byte), format s = some f → decode (.slot 6) s.scw = .ok i →
    packedBytes i s = .ok bytes → bytes.length = rowBytes f s

/-- R246, R248: a PK operation one of whose byte writes the platform answers with an error raises CV_BUS with CH = 0 and
BUF = 3; every byte of its row is then its packed value or what it was (U7, assumption 8), and anything where the host
has written it too (R275, assumption 12), every other byte unchanged. That the row buffers keep their rows is the model's
choice (U16, assumption 28). -/
def Obligations.PackBusErrorRaisesCvBus : Prop :=
  ∀ (i : Instr) (s : State) (bytes : List Byte), siteOf i = .slot 6 → s.phase = .busy → packedBytes i s = .ok bytes →
    ¬WritesAnswered s bytes.length →
    ∃ t, exec i s = .next t ∧
      t = { s with phase := .fault, faultRec := ⟨0x17, 0, 3, s.row⟩, out := t.out, freeCount := t.freeCount } ∧
      SameOutsideRow s t bytes.length ∧
      ∀ a, a.toNat ∉ s.hostOut → outByte t a = outByte s a ∨ bytes[distance s.outPtr a]? = some (outByte t a)

/-- R26 ("should treat a read of an unwritten element as a fault of the model"): an operation one of whose input rows
does not hold its elements stops the model by name. The operations of slots 0 and 7 read no row buffer. -/
def Obligations.UnwrittenElementsStopTheModel : Prop :=
  ∀ s : State,
    (¬RowsHeld s s.rr → ∀ b, exec (.rsc b) s = .fault .unwrittenElement ∧ exec (.rscD b) s = .fault .unwrittenElement) ∧
    (¬(2 * chanCount s 0 ≤ s.wr.c0.length ∧ 2 * chanCount s 1 ≤ s.wr.c1.length ∧ 2 * chanCount s 2 ≤ s.wr.c2.length) →
      exec .ctPass s = .fault .unwrittenElement) ∧
    (¬(rowWidth s ≤ s.wr.c0.length ∧ rowWidth s ≤ s.wr.c1.length ∧ rowWidth s ≤ s.wr.c2.length) →
      exec .ctDiff s = .fault .unwrittenElement) ∧
    (s.wr.c3.length < rowWidth s → exec .ctAlpha s = .fault .unwrittenElement) ∧
    (¬ComponentsHeld s (rowWidth s) → ∀ i ∈ [Instr.ctMtxCg601, .ctMtxVs601, .ctMtxCg709, .ctMtxVs709, .pkRg30, .pkAr10,
      .pkAb10, .pkR210, .pkDpx0], exec i s = .fault .unwrittenElement) ∧
    (¬(rowWidth s ≤ s.cr.k1.length ∧ rowWidth s ≤ s.cr.k2.length) →
      exec .ssPair s = .fault .unwrittenElement ∧ exec .ssCw s = .fault .unwrittenElement) ∧
    (∀ b, ¬Rows422Held b s → ∀ i ∈ [Instr.pkYuyv b, .pkUyvy b, .pkV210 b], exec i s = .fault .unwrittenElement) ∧
    (∀ b, ¬(ComponentsHeld s (rowWidth s) ∧ AlphaHeld b s) → ∀ i ∈ [Instr.pkV408 b, .pkAyuv b, .pkB64a b],
      exec i s = .fault .unwrittenElement) ∧
    (∀ b, ¬(rowWidth s ≤ s.cr.k0.length ∧ 2 * chanCount s 1 ≤ s.cr.k1.length ∧ 2 * chanCount s 1 ≤ s.cr.k2.length ∧
      AlphaHeld b s) → exec (.pkP16 b) s = .fault .unwrittenElement)

/-! ### The row advance -/

/-- R222: ADV. -/
def Obligations.AdvanceFollowsItsRule : Prop :=
  (∀ w, decode (.slot 7) w = .ok .adv) ∧
  ∀ s : State, ∃ t, exec .adv s = .next t ∧
    t = { s with
      lpPtr := t.lpPtr, hpPtr := t.hpPtr, outPtr := s.outPtr + s.outPitch, row := s.row + 1, stage := 0,
      phase := if s.row + 1 = s.roi.extractLsb' 16 16 then .done else s.phase } ∧
    SameMemories s t ∧
    ∀ ch : Fin 4,
      t.lpPtr.get ch = (if ch.val < 3 ∨ s.scw.getLsbD 11 = true then s.lpPtr.get ch + s.lpPitch.get ch else s.lpPtr.get ch) ∧
      t.hpPtr.get ch = (if ch.val < 3 ∨ s.scw.getLsbD 11 = true then s.hpPtr.get ch + s.hpPitch.get ch else s.hpPtr.get ch)

/-! ### The whole machine -/

/-- R38, R61, R65: no operation but RESET writes a descriptor register or IRQEN; no operation at all writes COEF; only PK
operations, and a RESET that cuts one, write OUT; no operation is refused. -/
def Obligations.OperationsLeaveDescriptorsAndCoefficientsAlone : Prop :=
  ∀ (i : Instr) (s : State), (∀ r, exec i s ≠ .refused r) ∧ ∀ t, exec i s = .next t →
    t.coef = s.coef ∧ t.params = s.params ∧ t.bus = s.bus ∧ t.inputs = s.inputs ∧ t.rdata = s.rdata ∧
      (i ≠ .reset → SameDescriptors s t) ∧
      (siteOf i ≠ .slot 6 → ¬(i = .reset ∧ s.phase = .busy ∧ s.stage = 6) → t.out = s.out)

/-- R28: "STATE changes only as follows … No other transition exists". -/
def Obligations.StateChangesOnlyAsListed : Prop :=
  ∀ s t : State, step s = .next t → t.phase ≠ s.phase →
    (t.phase = .idle ∧
      (s.inputs.head? = some .hardReset ∨ s.inputs.head? = some (.write .word 0x04 0x00000002))) ∨
    ((s.phase = .idle ∨ s.phase = .done) ∧ s.inputs.head? = some (.write .word 0x04 0x00000001) ∧
      ((firstViolation s = none ∧ t.phase = if height s = 0 then .done else .busy) ∨
        (firstViolation s ≠ none ∧ t.phase = .fault))) ∨
    ((s.phase = .idle ∨ s.phase = .done) ∧
      (∃ w, s.inputs.head? = some (.write .word 0x04 w) ∧ 3 ≤ w.toNat) ∧ t.phase = .fault ∧ t.faultRec.code = 0x10) ∨
    (s.phase = .busy ∧ t.phase = .done ∧ s.stage = 7 ∧ s.row + 1 = height s) ∨
    (s.phase = .busy ∧ t.phase = .fault ∧ t.faultRec.code = 0x17 ∧ (s.stage = 0 ∨ s.stage = 6))

/-- R250: FAULT is left only by RESET or a hardware reset, and the record, ROW, STAGE and the pointers stay as they
are. -/
def Obligations.FaultSticksUntilReset : Prop :=
  ∀ s t : State, s.phase = .fault → step s = .next t →
    s.inputs.head? ≠ some .hardReset → s.inputs.head? ≠ some (.write .word 0x04 0x00000002) →
    t.phase = .fault ∧ t.faultRec = s.faultRec ∧ t.row = s.row ∧ t.stage = s.stage ∧ t.outPtr = s.outPtr ∧
      t.lpPtr = s.lpPtr ∧ t.hpPtr = s.hpPtr

/-- Every step keeps both memories in their canonical form (the model's own representation of R61 and R63). -/
def Obligations.StepKeepsMemoriesCanonical : Prop :=
  ∀ s t : State, MemoriesCanonical s → step s = .next t → MemoriesCanonical t

/-- The state after reset has both memories in their canonical form and meets the invariant of a strip. -/
def Obligations.ResetMeetsTheInvariants : Prop := MemoriesCanonical State.reset ∧ StripInv State.reset

/-- R22 to R29, R53, R66, R214, R226: every step keeps the invariant of a running strip. -/
def Obligations.StepKeepsStripInvariant : Prop := ∀ s t : State, StripInv s → step s = .next t → StripInv t

/-- R26, R124: no state of the invariant's steps into a fault of the model: "No rule reads an element that no earlier
operation of the same row has written", and "n < 3 never reaches a SYN operation". -/
def Obligations.InvariantExcludesModelFaults : Prop := ∀ s : State, StripInv s → NoModelFault s

/-- R228, R215, R73, R222: a strip that START has begun runs to DONE in HEIGHT * (5 + m) steps on a platform without bus
errors, with every pointer at its base plus HEIGHT pitches, the coefficients and descriptors untouched, and no byte
of OUT changed outside the strip's rows. -/
def Obligations.StripRunsToDone : Prop :=
  ∀ s : State, StripInv s → s.phase = .busy → s.row = 0 → s.stage = 0 → s.inputs = [] → s.params.busErrors = false →
    ∃ t, Host.Core.run Sys2Proof.core ((height s).toNat * (5 + optionalSlots s.scw)) s = .next t ∧
      t.phase = .done ∧ t.row = height s ∧ t.stage = 0 ∧ SameDescriptors s t ∧ t.wrerr = s.wrerr ∧
      t.outPtr = s.outBase + (height s).setWidth 32 * s.outPitch ∧
      (∀ ch, inUse s ch = true → t.lpPtr.get ch = s.lpBase.get ch + (height s).setWidth 32 * s.lpPitch.get ch ∧
        t.hpPtr.get ch = s.hpBase.get ch + (height s).setWidth 32 * s.hpPitch.get ch) ∧
      (∀ a, coefSample t a = coefSample s a) ∧ ∀ a, inOutRows s a = false → outByte t a = outByte s a

end Statements
end

