-- ==== Sys2Proof/Laws/Decode.lean ====
section
/-! SUPPORT. The decoder site by site, as a chain of comparisons. -/

namespace Sys2Proof

/-! ### A list of rows searched at a site -/

/-- What decoding answers when no row is met (R95, R104). -/
def noRow : Site → Reject
  | .cmd => .invalidCommand
  | .slot _ => .emptySlot

/-- Decoding over any list of rows. -/
def decodeRows (rows : List OpRow) (site : Site) (w : Word) : Except Reject Instr :=
  match rows.find? (fun r => r.hit site w) with
  | some r => .ok (r.build w)
  | none => .error (noRow site)

theorem decode_eq (site : Site) (w : Word) : decode site w = decodeRows opTable site w := by
  cases site <;> rfl

@[simp] theorem decodeRows_nil (site : Site) (w : Word) : decodeRows [] site w = .error (noRow site) := rfl

/-- The first row is met, or the others decide. -/
theorem decodeRows_cons (r : OpRow) (rows : List OpRow) (site : Site) (w : Word) :
    decodeRows (r :: rows) site w =
      if r.site = site ∧ w &&& r.mask = r.pattern then .ok (r.build w) else decodeRows rows site w := by
  unfold decodeRows
  rw [List.find?_cons]
  unfold OpRow.hit
  by_cases hs : r.site = site <;> by_cases hw : w &&& r.mask = r.pattern <;> simp [hs, hw]

/-- An instruction decoded is that of a row met at its site. -/
theorem decode_ok_row {site : Site} {w : Word} {i : Instr} (h : decode site w = .ok i) :
    ∃ r ∈ opTable, r.site = site ∧ w &&& r.mask = r.pattern ∧ r.build w = i := by
  rw [decode_eq] at h
  unfold decodeRows at h
  split at h
  · rename_i r hr
    have hm := List.find?_some hr
    simp only [OpRow.hit, Bool.and_eq_true, decide_eq_true_eq] at hm
    exact ⟨r, List.mem_of_find?_eq_some hr, hm.1, hm.2, Except.ok.inj h⟩
  · cases h

/-! ### The decoder at each site -/

theorem and_allOnes_word (w : Word) : w &&& 0xFFFFFFFF = w := BitVec.and_allOnes

theorem decode_cmd (w : Word) : decode .cmd w =
    if w = 0x00000000 then .ok .nop else if w = 0x00000001 then .ok .start else if w = 0x00000002 then .ok .reset
    else .error .invalidCommand := by
  rw [decode_eq]
  simp only [opTable, commandRows, filterRows, colorRows, packRows, List.cons_append, List.nil_append,
    decodeRows_cons, decodeRows_nil, reduceCtorEq, false_and, true_and, if_false, and_allOnes_word, noRow]

theorem decode_slot0 (w : Word) : decode (.slot 0) w =
    if w &&& 0x00000003 = 0x00000000 then .ok (.synStd (scwDiv2rnd w))
    else if w &&& 0x00000003 = 0x00000001 then .ok (.synLim (scwDiv2rnd w) (scwLimbits w))
    else if w &&& 0x00000003 = 0x00000002 then .ok (.synDsc (scwDshift w)) else .error .emptySlot := by
  rw [decode_eq]
  simp [opTable, commandRows, filterRows, colorRows, packRows, decodeRows_cons, noRow]

theorem decode_slot1 (w : Word) : decode (.slot 1) w =
    if w &&& 0x00000100 = 0x00000000 then .ok (.rsc (scwOutsign w))
    else if w &&& 0x00000100 = 0x00000100 then .ok (.rscD (scwOutsign w)) else .error .emptySlot := by
  rw [decode_eq]
  simp [opTable, commandRows, filterRows, colorRows, packRows, decodeRows_cons, noRow]

theorem decode_slot2 (w : Word) : decode (.slot 2) w =
    if w &&& 0x00000200 = 0x00000000 then .ok .ctPass
    else if w &&& 0x00000200 = 0x00000200 then .ok .ctDiff else .error .emptySlot := by
  rw [decode_eq]
  simp [opTable, commandRows, filterRows, colorRows, packRows, decodeRows_cons, noRow]

theorem decode_slot3 (w : Word) : decode (.slot 3) w =
    if w &&& 0x00803200 = 0x00000200 then .ok .ctMtxCg601
    else if w &&& 0x00803200 = 0x00001200 then .ok .ctMtxVs601
    else if w &&& 0x00803200 = 0x00002200 then .ok .ctMtxCg709
    else if w &&& 0x00803200 = 0x00003200 then .ok .ctMtxVs709 else .error .emptySlot := by
  rw [decode_eq]
  simp [opTable, commandRows, filterRows, colorRows, packRows, decodeRows_cons, noRow]

theorem decode_slot4 (w : Word) : decode (.slot 4) w =
    if w &&& 0x00000800 = 0x00000800 then .ok .ctAlpha else .error .emptySlot := by
  rw [decode_eq]
  simp [opTable, commandRows, filterRows, colorRows, packRows, decodeRows_cons, noRow]

theorem decode_slot5 (w : Word) : decode (.slot 5) w =
    if w &&& 0x00F04400 = 0x00100000 then .ok .ssPair
    else if w &&& 0x00F04400 = 0x00104000 then .ok .ssCw else .error .emptySlot := by
  rw [decode_eq]
  simp [opTable, commandRows, filterRows, colorRows, packRows, decodeRows_cons, noRow]

theorem decode_slot6 (w : Word) : decode (.slot 6) w =
    if w &&& 0x00FF0000 = 0x00100000 then .ok (.pkYuyv (scwSrc422 w))
    else if w &&& 0x00FF0000 = 0x00110000 then .ok (.pkUyvy (scwSrc422 w))
    else if w &&& 0x00FF0000 = 0x00120000 then .ok (.pkV210 (scwSrc422 w))
    else if w &&& 0x00FF0000 = 0x00200000 then .ok (.pkV408 (scwAlpha w))
    else if w &&& 0x00FF0000 = 0x00210000 then .ok (.pkAyuv (scwAlpha w))
    else if w &&& 0x00FF0000 = 0x00500000 then .ok (.pkP16 (scwAlpha w))
    else if w &&& 0x00FF0000 = 0x00800000 then .ok .pkRg30
    else if w &&& 0x00FF0000 = 0x00810000 then .ok .pkAr10
    else if w &&& 0x00FF0000 = 0x00820000 then .ok .pkAb10
    else if w &&& 0x00FF0000 = 0x00830000 then .ok .pkR210
    else if w &&& 0x00FF0000 = 0x00840000 then .ok .pkDpx0
    else if w &&& 0x00FF0000 = 0x00900000 then .ok (.pkB64a (scwAlpha w)) else .error .emptySlot := by
  rw [decode_eq]
  simp [opTable, commandRows, filterRows, colorRows, packRows, decodeRows_cons, noRow]

@[simp] theorem decode_slot7 (w : Word) : decode (.slot 7) w = .ok .adv := by
  rw [decode_eq]
  simp [opTable, commandRows, filterRows, colorRows, packRows, decodeRows_cons]

/-- A slot decodes an operation of that slot (R96). -/
theorem siteOf_decode {site : Site} {w : Word} {i : Instr} (h : decode site w = .ok i) : siteOf i = site := by
  obtain ⟨r, hr, rfl, -, rfl⟩ := decode_ok_row h
  revert r
  simp [opTable, commandRows, filterRows, colorRows, packRows, siteOf]

/-- ADV stands in slot 7 only. -/
theorem decode_adv_slot {k : BitVec 3} {w : Word} (h : decode (.slot k) w = .ok .adv) : k = 7 := by
  have := siteOf_decode h
  simpa [siteOf, eq_comm] using this

end Sys2Proof
end

