-- ==== Sys2Proof/Laws/Memory.lean ====
section
/-! SUPPORT. The memories: a read after a write, the canonical form kept, and what a row of bytes changes. -/

namespace Sys2Proof.Machine

variable {n : Nat}

/-! ### One unit -/

@[simp] theorem Memory.read_nil (a : Nat) : Memory.read ([] : Memory n) a = Config.unlisted := rfl

theorem Memory.read_cons (b : Nat) (x : BitVec n) (m : Memory n) (a : Nat) :
    Memory.read ((b, x) :: m) a = if b = a then x else Memory.read m a := rfl

theorem Memory.read_erase_same (m : Memory n) (a : Nat) :
    Memory.read (m.filter fun e => decide (e.1 ≠ a)) a = Config.unlisted := by
  induction m with
  | nil => rfl
  | cons e m ih =>
    obtain ⟨b, x⟩ := e
    by_cases h : b = a <;> simp_all [Memory.read_cons]

theorem Memory.read_erase_ne (m : Memory n) {a a' : Nat} (h : a' ≠ a) :
    Memory.read (m.filter fun e => decide (e.1 ≠ a)) a' = Memory.read m a' := by
  induction m with
  | nil => rfl
  | cons e m ih =>
    obtain ⟨b, x⟩ := e
    by_cases hb : b = a
    · have : b ≠ a' := by omega
      simp_all [Memory.read_cons]
    · simp_all [Memory.read_cons]

theorem Memory.read_insert (m : Memory n) (a : Nat) (v : BitVec n) (a' : Nat) :
    Memory.read (Memory.insert m a v) a' = if a = a' then v else Memory.read m a' := by
  induction m with
  | nil => rfl
  | cons e m ih =>
    obtain ⟨b, x⟩ := e
    unfold Memory.insert
    split
    · rfl
    · split
      · subst b; simp only [Memory.read_cons]; split <;> simp_all
      · simp only [Memory.read_cons, ih]
        split <;> split <;> simp_all

/-- A read after a write: the value written at its address, every other address as before. -/
theorem Memory.read_write (m : Memory n) (a : Nat) (v : BitVec n) (a' : Nat) :
    Memory.read (Memory.write m a v) a' = if a = a' then v else Memory.read m a' := by
  unfold Memory.write
  split
  · rename_i hv
    by_cases h : a = a'
    · subst h; rw [if_pos rfl, hv]; exact Memory.read_erase_same m a
    · rw [Memory.read_erase_ne m (fun e => h e.symm), if_neg h]
  · exact Memory.read_insert m a v a'

/-! ### The canonical form -/

theorem Memory.wfFrom_cons (lo a : Nat) (v : BitVec n) (m : Memory n) :
    Memory.wfFrom lo ((a, v) :: m) = true ↔
      lo ≤ a ∧ a < 2 ^ 32 ∧ v ≠ Config.unlisted ∧ Memory.wfFrom (a + 1) m = true := by
  simp [Memory.wfFrom, and_assoc]

theorem Memory.wfFrom_mono {lo lo' : Nat} (h : lo' ≤ lo) {m : Memory n} (hm : Memory.wfFrom lo m = true) :
    Memory.wfFrom lo' m = true := by
  cases m with
  | nil => rfl
  | cons e m =>
    obtain ⟨a, v⟩ := e
    rw [Memory.wfFrom_cons] at hm ⊢
    exact ⟨by omega, hm.2⟩

theorem Memory.wfFrom_filter (p : Nat × BitVec n → Bool) (m : Memory n) :
    ∀ lo, Memory.wfFrom lo m = true → Memory.wfFrom lo (m.filter p) = true := by
  induction m with
  | nil => intro lo h; exact h
  | cons e m ih =>
    obtain ⟨a, v⟩ := e
    intro lo h
    rw [Memory.wfFrom_cons] at h
    have hm := ih (a + 1) h.2.2.2
    rw [List.filter_cons]
    split
    · rw [Memory.wfFrom_cons]; exact ⟨h.1, h.2.1, h.2.2.1, hm⟩
    · exact Memory.wfFrom_mono (by omega) hm

theorem Memory.wfFrom_insert {a : Nat} {v : BitVec n} (ha : a < 2 ^ 32) (hv : v ≠ Config.unlisted) (m : Memory n) :
    ∀ lo, lo ≤ a → Memory.wfFrom lo m = true → Memory.wfFrom lo (Memory.insert m a v) = true := by
  induction m with
  | nil => intro lo hlo _; rw [Memory.insert, Memory.wfFrom_cons]; exact ⟨hlo, ha, hv, rfl⟩
  | cons e m ih =>
    obtain ⟨b, x⟩ := e
    intro lo hlo h
    have hc := (Memory.wfFrom_cons lo b x m).1 h
    unfold Memory.insert
    split
    · rw [Memory.wfFrom_cons]
      refine ⟨hlo, ha, hv, ?_⟩
      rw [Memory.wfFrom_cons]; exact ⟨by omega, hc.2⟩
    · split
      · subst b; rw [Memory.wfFrom_cons]; exact ⟨hlo, ha, hv, hc.2.2.2⟩
      · rw [Memory.wfFrom_cons]
        exact ⟨hc.1, hc.2.1, hc.2.2.1, ih (b + 1) (by omega) hc.2.2.2⟩

/-- A write keeps the canonical form. -/
theorem Memory.wf_write {m : Memory n} (h : m.wf = true) {a : Nat} (ha : a < 2 ^ 32) (v : BitVec n) :
    (m.write a v).wf = true := by
  unfold Memory.wf Memory.write at *
  split
  · exact Memory.wfFrom_filter _ m 0 h
  · rename_i hv; exact Memory.wfFrom_insert ha hv m 0 (Nat.zero_le a) h

@[simp] theorem Memory.wf_nil : Memory.wf ([] : Memory n) = true := rfl

/-! ### A row of bytes -/

/-- What `writeChosen` does at an address: the byte with that address if it is chosen, else what stood there. A row
is shorter than the space, so no two bytes share an address. -/
theorem read_writeChosen (keep : Nat → Bool) (bytes : List Byte) :
    ∀ (k : Nat) (m : Memory 8) (a x : Word), bytes.length ≤ 2 ^ 32 →
      (writeChosen keep k m a bytes).read x.toNat =
        match bytes[(x - a).toNat]? with
        | some b => if keep (k + (x - a).toNat) then b else m.read x.toNat
        | none => m.read x.toNat := by
  induction bytes with
  | nil => intro k m a x _; simp [writeChosen]
  | cons b bytes ih =>
    intro k m a x hlen
    simp only [List.length_cons] at hlen
    rw [writeChosen, ih (k + 1) _ (a + 1) x (by omega)]
    by_cases hx : x = a
    · subst hx
      have h1 : (x - (x + 1)).toNat = 2 ^ 32 - 1 := by
        have : x - (x + 1) = (-1 : Word) := by bv_omega
        rw [this]; decide
      have h2 : bytes[2 ^ 32 - 1]? = none := List.getElem?_eq_none (by omega)
      rw [h1, h2]
      have h3 : (x - x).toNat = 0 := by simp
      rw [h3]
      by_cases hk : keep k <;> simp [hk, Memory.read_write]
    · have hne : (x - a).toNat ≠ 0 := by
        intro h; apply hx; bv_omega
      have hs : (x - (a + 1)).toNat + 1 = (x - a).toNat := by bv_omega
      have hidx : (b :: bytes)[(x - a).toNat]? = bytes[(x - (a + 1)).toNat]? := by
        rw [← hs, List.getElem?_cons_succ]
      have hread : (if keep k then m.write a.toNat b else m).read x.toNat = m.read x.toNat := by
        split
        · rw [Memory.read_write, if_neg]; intro h; exact hx (BitVec.eq_of_toNat_eq h.symm)
        · rfl
      rw [hidx, hread]
      have hk : k + 1 + (x - (a + 1)).toNat = k + (x - a).toNat := by omega
      rw [hk]

theorem wf_writeChosen (keep : Nat → Bool) (bytes : List Byte) :
    ∀ (k : Nat) (m : Memory 8) (a : Word), m.wf = true → (writeChosen keep k m a bytes).wf = true := by
  induction bytes with
  | nil => intro k m a h; exact h
  | cons b bytes ih =>
    intro k m a h
    rw [writeChosen]
    apply ih
    split
    · exact Memory.wf_write h a.isLt b
    · exact h

/-- A row written, whole or in part, keeps the canonical form. -/
theorem wf_writeRow (keep : Nat → Bool) (bytes : List Byte) {s : State} (h : s.out.wf = true) :
    (writeRow keep bytes s).out.wf = true := wf_writeChosen _ _ 0 s.out s.outPtr h

end Sys2Proof.Machine
end

