-- ==== Sys2Proof/Laws/Rows.lean ====
section
/-! SUPPORT. Row buffers, channel quadruples and lists of equal-sized byte groups. -/

namespace Sys2Proof.Machine

/-! ### Quadruples -/

@[simp] theorem Quad.get_build {α : Type} (f : Fin 4 → α) (ch : Fin 4) : (Quad.build f).get ch = f ch := by
  match ch with
  | 0 => rfl
  | 1 => rfl
  | 2 => rfl
  | 3 => rfl

theorem Quad.ext_get {α : Type} {p q : Quad α} (h : ∀ ch, p.get ch = q.get ch) : p = q := by
  cases p; cases q
  simpa [Quad.get] using And.intro (h 0) (And.intro (h 1) (And.intro (h 2) (h 3)))

@[simp] theorem Quad.build_get {α : Type} (q : Quad α) : Quad.build q.get = q := by cases q; rfl

theorem Quad.get_set {α : Type} (q : Quad α) (ch i : Fin 4) (x : α) :
    (q.set ch x).get i = if i = ch then x else q.get i := by simp [Quad.set]

@[simp] theorem Quad.get_set_same {α : Type} (q : Quad α) (ch : Fin 4) (x : α) : (q.set ch x).get ch = x := by
  simp [Quad.get_set]

/-! ### Rows -/

@[simp] theorem rowFrom_length (n : Nat) (f : Nat → Int) : (rowFrom n f).length = n := by simp [rowFrom]

theorem rowFrom_getElem? (n : Nat) (f : Nat → Int) (i : Nat) :
    (rowFrom n f)[i]? = if i < n then some (f i) else none := by
  unfold rowFrom
  split
  · rename_i h; simp [List.getElem?_range h]
  · rename_i h; simp; omega

@[simp] theorem elem_rowFrom {n i : Nat} (h : i < n) (f : Nat → Int) : elem (rowFrom n f) i = f i := by
  rw [elem, List.getD_eq_getElem?_getD, rowFrom_getElem?, if_pos h, Option.getD_some]

theorem mem_rowFrom {n : Nat} {f : Nat → Int} {x : Int} : x ∈ rowFrom n f ↔ ∃ i < n, f i = x := by
  simp [rowFrom]

@[simp] theorem written_eq (row : Row) (n : Nat) : written row n = true ↔ n ≤ row.length := by simp [written]

theorem elem_mem {row : Row} {i : Nat} (h : i < row.length) : elem row i ∈ row := by
  rw [elem, List.getD_eq_getElem?_getD, List.getElem?_eq_getElem h]; exact List.getElem_mem h

@[simp] theorem needRows_true {α : Type} (x : α) : needRows true x = .ok x := rfl

@[simp] theorem needRows_false {α : Type} (x : α) : needRows false x = .error .unwrittenElement := rfl

/-- `channelsWritten` says that every channel in use has its 2*Nc(ch) elements. -/
theorem channelsWritten_iff (s : State) (rows : Quad Row) :
    channelsWritten s rows = true ↔ ∀ ch, inUse s ch = true → 2 * chanCount s ch ≤ (rows.get ch).length := by
  unfold channelsWritten
  simp only [List.all_cons, List.all_nil, Bool.and_true, Bool.and_eq_true, Bool.or_eq_true, Bool.not_eq_true',
    written_eq]
  constructor
  · rintro ⟨h0, h1, h2, h3⟩ ch hu
    match ch with
    | 0 => exact h0.resolve_left (by simp [hu])
    | 1 => exact h1.resolve_left (by simp [hu])
    | 2 => exact h2.resolve_left (by simp [hu])
    | 3 => exact h3.resolve_left (by simp [hu])
  · intro h
    refine ⟨?_, ?_, ?_, ?_⟩ <;>
    · by_contra hc
      rw [not_or] at hc
      exact hc.2 (h _ (by simpa using hc.1))

/-- Channels 0, 1 and 2 are always in use (R18). -/
theorem inUse_low (s : State) {ch : Fin 4} (h : ch.val < 3) : inUse s ch = true := by
  unfold inUse
  rw [decide_eq_true_eq]
  unfold channelCount
  split <;> omega

/-- Channel 3 is in use exactly when there is an alpha channel (R18). -/
@[simp] theorem inUse_three (s : State) : inUse s 3 = scwAlpha s.scw := by
  unfold inUse channelCount
  cases scwAlpha s.scw <;> simp

@[simp] theorem chanCount_zero (s : State) : chanCount s 0 = coefCount s := by simp [chanCount]

@[simp] theorem chanCount_three (s : State) : chanCount s 3 = coefCount s := by simp [chanCount]

theorem chanCount_two (s : State) : chanCount s 2 = chanCount s 1 := by simp [chanCount]

theorem chanCount_le (s : State) (ch : Fin 4) : chanCount s ch ≤ coefCount s := by
  unfold chanCount; split <;> omega

theorem coefCount_lt (s : State) : coefCount s < 2 ^ 16 := (s.roi.extractLsb' 0 16).isLt

/-! ### Lists of equal-sized groups -/

theorem flatMap_range_length {α : Type} (g : Nat → List α) (L n : Nat) (h : ∀ j, (g j).length = L) :
    ((List.range n).flatMap g).length = n * L := by
  induction n with
  | zero => simp
  | succ n ih => rw [List.range_succ, List.flatMap_append, List.length_append, ih]; simp [h, Nat.succ_mul]

/-- Element `L * j + r` of `n` groups of `L` elements is element `r` of group `j`. -/
theorem flatMap_range_getElem? {α : Type} (g : Nat → List α) {L n j r : Nat} (h : ∀ j, (g j).length = L) (hj : j < n)
    (hr : r < L) : ((List.range n).flatMap g)[L * j + r]? = (g j)[r]? := by
  induction n with
  | zero => omega
  | succ n ih =>
    rw [List.range_succ, List.flatMap_append, List.flatMap_singleton]
    have hlen := flatMap_range_length g L n h
    by_cases hjn : j < n
    · rw [List.getElem?_append_left, ih hjn]
      rw [hlen, Nat.mul_comm n L]
      calc L * j + r < L * j + L := by omega
        _ = L * (j + 1) := by ring
        _ ≤ L * n := Nat.mul_le_mul_left L hjn
    · have : j = n := by omega
      subst this
      rw [List.getElem?_append_right (by rw [hlen, Nat.mul_comm]; omega), hlen, Nat.mul_comm j L]
      congr 1; omega

@[simp] theorem le16_length (w : BitVec 16) : (le16 w).length = 2 := rfl
@[simp] theorem be16_length (w : BitVec 16) : (be16 w).length = 2 := rfl
@[simp] theorem le32_length (w : Word) : (le32 w).length = 4 := rfl
@[simp] theorem be32_length (w : Word) : (be32 w).length = 4 := rfl

end Sys2Proof.Machine
end

