-- ==== Sys2Proof/Laws/State.lean ====
section
/-! SUPPORT. One lemma per field per update of State: what each named update leaves and what it writes. -/

namespace Sys2Proof.Machine

/-! ### Fault entry (R248) -/

@[simp] theorem raiseFault_phase (c : FaultCode) (ch buf : BitVec 2) (s : State) : (raiseFault c ch buf s).phase = .fault := rfl
@[simp] theorem raiseFault_row (c : FaultCode) (ch buf : BitVec 2) (s : State) : (raiseFault c ch buf s).row = if acceptsStart s.phase then 0 else s.row := rfl
@[simp] theorem raiseFault_stage (c : FaultCode) (ch buf : BitVec 2) (s : State) : (raiseFault c ch buf s).stage = if acceptsStart s.phase then 0 else s.stage := rfl
@[simp] theorem raiseFault_wrerr (c : FaultCode) (ch buf : BitVec 2) (s : State) : (raiseFault c ch buf s).wrerr = s.wrerr := rfl
@[simp] theorem raiseFault_faultRec (c : FaultCode) (ch buf : BitVec 2) (s : State) : (raiseFault c ch buf s).faultRec = ⟨faultByte c, ch, buf, if acceptsStart s.phase then 0 else s.row⟩ := rfl
@[simp] theorem raiseFault_irqen (c : FaultCode) (ch buf : BitVec 2) (s : State) : (raiseFault c ch buf s).irqen = s.irqen := rfl
@[simp] theorem raiseFault_scw (c : FaultCode) (ch buf : BitVec 2) (s : State) : (raiseFault c ch buf s).scw = s.scw := rfl
@[simp] theorem raiseFault_prec (c : FaultCode) (ch buf : BitVec 2) (s : State) : (raiseFault c ch buf s).prec = s.prec := rfl
@[simp] theorem raiseFault_roi (c : FaultCode) (ch buf : BitVec 2) (s : State) : (raiseFault c ch buf s).roi = s.roi := rfl
@[simp] theorem raiseFault_diffoff (c : FaultCode) (ch buf : BitVec 2) (s : State) : (raiseFault c ch buf s).diffoff = s.diffoff := rfl
@[simp] theorem raiseFault_alphaDc (c : FaultCode) (ch buf : BitVec 2) (s : State) : (raiseFault c ch buf s).alphaDc = s.alphaDc := rfl
@[simp] theorem raiseFault_alphaGain (c : FaultCode) (ch buf : BitVec 2) (s : State) : (raiseFault c ch buf s).alphaGain = s.alphaGain := rfl
@[simp] theorem raiseFault_alphaScale (c : FaultCode) (ch buf : BitVec 2) (s : State) : (raiseFault c ch buf s).alphaScale = s.alphaScale := rfl
@[simp] theorem raiseFault_outBase (c : FaultCode) (ch buf : BitVec 2) (s : State) : (raiseFault c ch buf s).outBase = s.outBase := rfl
@[simp] theorem raiseFault_outPitch (c : FaultCode) (ch buf : BitVec 2) (s : State) : (raiseFault c ch buf s).outPitch = s.outPitch := rfl
@[simp] theorem raiseFault_lpBase (c : FaultCode) (ch buf : BitVec 2) (s : State) : (raiseFault c ch buf s).lpBase = s.lpBase := rfl
@[simp] theorem raiseFault_hpBase (c : FaultCode) (ch buf : BitVec 2) (s : State) : (raiseFault c ch buf s).hpBase = s.hpBase := rfl
@[simp] theorem raiseFault_lpPitch (c : FaultCode) (ch buf : BitVec 2) (s : State) : (raiseFault c ch buf s).lpPitch = s.lpPitch := rfl
@[simp] theorem raiseFault_hpPitch (c : FaultCode) (ch buf : BitVec 2) (s : State) : (raiseFault c ch buf s).hpPitch = s.hpPitch := rfl
@[simp] theorem raiseFault_outPtr (c : FaultCode) (ch buf : BitVec 2) (s : State) : (raiseFault c ch buf s).outPtr = s.outPtr := rfl
@[simp] theorem raiseFault_lpPtr (c : FaultCode) (ch buf : BitVec 2) (s : State) : (raiseFault c ch buf s).lpPtr = s.lpPtr := rfl
@[simp] theorem raiseFault_hpPtr (c : FaultCode) (ch buf : BitVec 2) (s : State) : (raiseFault c ch buf s).hpPtr = s.hpPtr := rfl
@[simp] theorem raiseFault_rr (c : FaultCode) (ch buf : BitVec 2) (s : State) : (raiseFault c ch buf s).rr = s.rr := rfl
@[simp] theorem raiseFault_wr (c : FaultCode) (ch buf : BitVec 2) (s : State) : (raiseFault c ch buf s).wr = s.wr := rfl
@[simp] theorem raiseFault_cr (c : FaultCode) (ch buf : BitVec 2) (s : State) : (raiseFault c ch buf s).cr = s.cr := rfl
@[simp] theorem raiseFault_sr (c : FaultCode) (ch buf : BitVec 2) (s : State) : (raiseFault c ch buf s).sr = s.sr := rfl
@[simp] theorem raiseFault_ar (c : FaultCode) (ch buf : BitVec 2) (s : State) : (raiseFault c ch buf s).ar = s.ar := rfl
@[simp] theorem raiseFault_coef (c : FaultCode) (ch buf : BitVec 2) (s : State) : (raiseFault c ch buf s).coef = s.coef := rfl
@[simp] theorem raiseFault_out (c : FaultCode) (ch buf : BitVec 2) (s : State) : (raiseFault c ch buf s).out = s.out := rfl
@[simp] theorem raiseFault_bus (c : FaultCode) (ch buf : BitVec 2) (s : State) : (raiseFault c ch buf s).bus = s.bus := rfl
@[simp] theorem raiseFault_inputs (c : FaultCode) (ch buf : BitVec 2) (s : State) : (raiseFault c ch buf s).inputs = s.inputs := rfl
@[simp] theorem raiseFault_rdata (c : FaultCode) (ch buf : BitVec 2) (s : State) : (raiseFault c ch buf s).rdata = s.rdata := rfl
@[simp] theorem raiseFault_overwritten (c : FaultCode) (ch buf : BitVec 2) (s : State) : (raiseFault c ch buf s).overwritten = s.overwritten := rfl
@[simp] theorem raiseFault_hostOut (c : FaultCode) (ch buf : BitVec 2) (s : State) : (raiseFault c ch buf s).hostOut = s.hostOut := rfl
@[simp] theorem raiseFault_freeCount (c : FaultCode) (ch buf : BitVec 2) (s : State) : (raiseFault c ch buf s).freeCount = s.freeCount := rfl
@[simp] theorem raiseFault_params (c : FaultCode) (ch buf : BitVec 2) (s : State) : (raiseFault c ch buf s).params = s.params := rfl

/-! ### A SYN operation's bus error (R246) -/

@[simp] theorem raiseReadFault_phase (l : List (BitVec 2 × BitVec 2)) (s : State) : (raiseReadFault l s).phase = .fault := rfl
@[simp] theorem raiseReadFault_row (l : List (BitVec 2 × BitVec 2)) (s : State) : (raiseReadFault l s).row = if acceptsStart s.phase then 0 else s.row := rfl
@[simp] theorem raiseReadFault_stage (l : List (BitVec 2 × BitVec 2)) (s : State) : (raiseReadFault l s).stage = if acceptsStart s.phase then 0 else s.stage := rfl
@[simp] theorem raiseReadFault_wrerr (l : List (BitVec 2 × BitVec 2)) (s : State) : (raiseReadFault l s).wrerr = s.wrerr := rfl
@[simp] theorem raiseReadFault_irqen (l : List (BitVec 2 × BitVec 2)) (s : State) : (raiseReadFault l s).irqen = s.irqen := rfl
@[simp] theorem raiseReadFault_scw (l : List (BitVec 2 × BitVec 2)) (s : State) : (raiseReadFault l s).scw = s.scw := rfl
@[simp] theorem raiseReadFault_prec (l : List (BitVec 2 × BitVec 2)) (s : State) : (raiseReadFault l s).prec = s.prec := rfl
@[simp] theorem raiseReadFault_roi (l : List (BitVec 2 × BitVec 2)) (s : State) : (raiseReadFault l s).roi = s.roi := rfl
@[simp] theorem raiseReadFault_diffoff (l : List (BitVec 2 × BitVec 2)) (s : State) : (raiseReadFault l s).diffoff = s.diffoff := rfl
@[simp] theorem raiseReadFault_alphaDc (l : List (BitVec 2 × BitVec 2)) (s : State) : (raiseReadFault l s).alphaDc = s.alphaDc := rfl
@[simp] theorem raiseReadFault_alphaGain (l : List (BitVec 2 × BitVec 2)) (s : State) : (raiseReadFault l s).alphaGain = s.alphaGain := rfl
@[simp] theorem raiseReadFault_alphaScale (l : List (BitVec 2 × BitVec 2)) (s : State) : (raiseReadFault l s).alphaScale = s.alphaScale := rfl
@[simp] theorem raiseReadFault_outBase (l : List (BitVec 2 × BitVec 2)) (s : State) : (raiseReadFault l s).outBase = s.outBase := rfl
@[simp] theorem raiseReadFault_outPitch (l : List (BitVec 2 × BitVec 2)) (s : State) : (raiseReadFault l s).outPitch = s.outPitch := rfl
@[simp] theorem raiseReadFault_lpBase (l : List (BitVec 2 × BitVec 2)) (s : State) : (raiseReadFault l s).lpBase = s.lpBase := rfl
@[simp] theorem raiseReadFault_hpBase (l : List (BitVec 2 × BitVec 2)) (s : State) : (raiseReadFault l s).hpBase = s.hpBase := rfl
@[simp] theorem raiseReadFault_lpPitch (l : List (BitVec 2 × BitVec 2)) (s : State) : (raiseReadFault l s).lpPitch = s.lpPitch := rfl
@[simp] theorem raiseReadFault_hpPitch (l : List (BitVec 2 × BitVec 2)) (s : State) : (raiseReadFault l s).hpPitch = s.hpPitch := rfl
@[simp] theorem raiseReadFault_outPtr (l : List (BitVec 2 × BitVec 2)) (s : State) : (raiseReadFault l s).outPtr = s.outPtr := rfl
@[simp] theorem raiseReadFault_lpPtr (l : List (BitVec 2 × BitVec 2)) (s : State) : (raiseReadFault l s).lpPtr = s.lpPtr := rfl
@[simp] theorem raiseReadFault_hpPtr (l : List (BitVec 2 × BitVec 2)) (s : State) : (raiseReadFault l s).hpPtr = s.hpPtr := rfl
@[simp] theorem raiseReadFault_rr (l : List (BitVec 2 × BitVec 2)) (s : State) : (raiseReadFault l s).rr = s.rr := rfl
@[simp] theorem raiseReadFault_wr (l : List (BitVec 2 × BitVec 2)) (s : State) : (raiseReadFault l s).wr = s.wr := rfl
@[simp] theorem raiseReadFault_cr (l : List (BitVec 2 × BitVec 2)) (s : State) : (raiseReadFault l s).cr = s.cr := rfl
@[simp] theorem raiseReadFault_sr (l : List (BitVec 2 × BitVec 2)) (s : State) : (raiseReadFault l s).sr = s.sr := rfl
@[simp] theorem raiseReadFault_ar (l : List (BitVec 2 × BitVec 2)) (s : State) : (raiseReadFault l s).ar = s.ar := rfl
@[simp] theorem raiseReadFault_coef (l : List (BitVec 2 × BitVec 2)) (s : State) : (raiseReadFault l s).coef = s.coef := rfl
@[simp] theorem raiseReadFault_out (l : List (BitVec 2 × BitVec 2)) (s : State) : (raiseReadFault l s).out = s.out := rfl
@[simp] theorem raiseReadFault_bus (l : List (BitVec 2 × BitVec 2)) (s : State) : (raiseReadFault l s).bus = s.bus := rfl
@[simp] theorem raiseReadFault_inputs (l : List (BitVec 2 × BitVec 2)) (s : State) : (raiseReadFault l s).inputs = s.inputs := rfl
@[simp] theorem raiseReadFault_rdata (l : List (BitVec 2 × BitVec 2)) (s : State) : (raiseReadFault l s).rdata = s.rdata := rfl
@[simp] theorem raiseReadFault_overwritten (l : List (BitVec 2 × BitVec 2)) (s : State) : (raiseReadFault l s).overwritten = s.overwritten := rfl
@[simp] theorem raiseReadFault_hostOut (l : List (BitVec 2 × BitVec 2)) (s : State) : (raiseReadFault l s).hostOut = s.hostOut := rfl
@[simp] theorem raiseReadFault_freeCount (l : List (BitVec 2 × BitVec 2)) (s : State) : (raiseReadFault l s).freeCount = s.freeCount + 1 := rfl
@[simp] theorem raiseReadFault_params (l : List (BitVec 2 × BitVec 2)) (s : State) : (raiseReadFault l s).params = s.params := rfl

/-! ### The return to the reset state (R56, R216) -/

@[simp] theorem resetRegisters_phase (s : State) : (resetRegisters s).phase = .idle := rfl
@[simp] theorem resetRegisters_row (s : State) : (resetRegisters s).row = 0 := rfl
@[simp] theorem resetRegisters_stage (s : State) : (resetRegisters s).stage = 0 := rfl
@[simp] theorem resetRegisters_wrerr (s : State) : (resetRegisters s).wrerr = false := rfl
@[simp] theorem resetRegisters_faultRec (s : State) : (resetRegisters s).faultRec = noFault := rfl
@[simp] theorem resetRegisters_irqen (s : State) : (resetRegisters s).irqen = 0 := rfl
@[simp] theorem resetRegisters_scw (s : State) : (resetRegisters s).scw = 0 := rfl
@[simp] theorem resetRegisters_prec (s : State) : (resetRegisters s).prec = 0 := rfl
@[simp] theorem resetRegisters_roi (s : State) : (resetRegisters s).roi = 0 := rfl
@[simp] theorem resetRegisters_diffoff (s : State) : (resetRegisters s).diffoff = 0 := rfl
@[simp] theorem resetRegisters_alphaDc (s : State) : (resetRegisters s).alphaDc = 0 := rfl
@[simp] theorem resetRegisters_alphaGain (s : State) : (resetRegisters s).alphaGain = 0 := rfl
@[simp] theorem resetRegisters_alphaScale (s : State) : (resetRegisters s).alphaScale = 0 := rfl
@[simp] theorem resetRegisters_outBase (s : State) : (resetRegisters s).outBase = 0 := rfl
@[simp] theorem resetRegisters_outPitch (s : State) : (resetRegisters s).outPitch = 0 := rfl
@[simp] theorem resetRegisters_lpBase (s : State) : (resetRegisters s).lpBase = ⟨0, 0, 0, 0⟩ := rfl
@[simp] theorem resetRegisters_hpBase (s : State) : (resetRegisters s).hpBase = ⟨0, 0, 0, 0⟩ := rfl
@[simp] theorem resetRegisters_lpPitch (s : State) : (resetRegisters s).lpPitch = ⟨0, 0, 0, 0⟩ := rfl
@[simp] theorem resetRegisters_hpPitch (s : State) : (resetRegisters s).hpPitch = ⟨0, 0, 0, 0⟩ := rfl
@[simp] theorem resetRegisters_outPtr (s : State) : (resetRegisters s).outPtr = 0 := rfl
@[simp] theorem resetRegisters_lpPtr (s : State) : (resetRegisters s).lpPtr = ⟨0, 0, 0, 0⟩ := rfl
@[simp] theorem resetRegisters_hpPtr (s : State) : (resetRegisters s).hpPtr = ⟨0, 0, 0, 0⟩ := rfl
@[simp] theorem resetRegisters_rr (s : State) : (resetRegisters s).rr = noRows := rfl
@[simp] theorem resetRegisters_wr (s : State) : (resetRegisters s).wr = noRows := rfl
@[simp] theorem resetRegisters_cr (s : State) : (resetRegisters s).cr = ⟨[], [], []⟩ := rfl
@[simp] theorem resetRegisters_sr (s : State) : (resetRegisters s).sr = ⟨[], []⟩ := rfl
@[simp] theorem resetRegisters_ar (s : State) : (resetRegisters s).ar = [] := rfl
@[simp] theorem resetRegisters_coef (s : State) : (resetRegisters s).coef = s.coef := rfl
@[simp] theorem resetRegisters_out (s : State) : (resetRegisters s).out = s.out := rfl
@[simp] theorem resetRegisters_bus (s : State) : (resetRegisters s).bus = s.bus := rfl
@[simp] theorem resetRegisters_inputs (s : State) : (resetRegisters s).inputs = s.inputs := rfl
@[simp] theorem resetRegisters_rdata (s : State) : (resetRegisters s).rdata = s.rdata := rfl
@[simp] theorem resetRegisters_overwritten (s : State) : (resetRegisters s).overwritten = s.overwritten := rfl
@[simp] theorem resetRegisters_hostOut (s : State) : (resetRegisters s).hostOut = s.hostOut := rfl
@[simp] theorem resetRegisters_freeCount (s : State) : (resetRegisters s).freeCount = s.freeCount := rfl
@[simp] theorem resetRegisters_params (s : State) : (resetRegisters s).params = s.params := rfl

/-! ### WRERR (R30) -/

@[simp] theorem setWrerr_phase (s : State) : (setWrerr s).phase = s.phase := rfl
@[simp] theorem setWrerr_row (s : State) : (setWrerr s).row = s.row := rfl
@[simp] theorem setWrerr_stage (s : State) : (setWrerr s).stage = s.stage := rfl
@[simp] theorem setWrerr_wrerr (s : State) : (setWrerr s).wrerr = true := rfl
@[simp] theorem setWrerr_faultRec (s : State) : (setWrerr s).faultRec = s.faultRec := rfl
@[simp] theorem setWrerr_irqen (s : State) : (setWrerr s).irqen = s.irqen := rfl
@[simp] theorem setWrerr_scw (s : State) : (setWrerr s).scw = s.scw := rfl
@[simp] theorem setWrerr_prec (s : State) : (setWrerr s).prec = s.prec := rfl
@[simp] theorem setWrerr_roi (s : State) : (setWrerr s).roi = s.roi := rfl
@[simp] theorem setWrerr_diffoff (s : State) : (setWrerr s).diffoff = s.diffoff := rfl
@[simp] theorem setWrerr_alphaDc (s : State) : (setWrerr s).alphaDc = s.alphaDc := rfl
@[simp] theorem setWrerr_alphaGain (s : State) : (setWrerr s).alphaGain = s.alphaGain := rfl
@[simp] theorem setWrerr_alphaScale (s : State) : (setWrerr s).alphaScale = s.alphaScale := rfl
@[simp] theorem setWrerr_outBase (s : State) : (setWrerr s).outBase = s.outBase := rfl
@[simp] theorem setWrerr_outPitch (s : State) : (setWrerr s).outPitch = s.outPitch := rfl
@[simp] theorem setWrerr_lpBase (s : State) : (setWrerr s).lpBase = s.lpBase := rfl
@[simp] theorem setWrerr_hpBase (s : State) : (setWrerr s).hpBase = s.hpBase := rfl
@[simp] theorem setWrerr_lpPitch (s : State) : (setWrerr s).lpPitch = s.lpPitch := rfl
@[simp] theorem setWrerr_hpPitch (s : State) : (setWrerr s).hpPitch = s.hpPitch := rfl
@[simp] theorem setWrerr_outPtr (s : State) : (setWrerr s).outPtr = s.outPtr := rfl
@[simp] theorem setWrerr_lpPtr (s : State) : (setWrerr s).lpPtr = s.lpPtr := rfl
@[simp] theorem setWrerr_hpPtr (s : State) : (setWrerr s).hpPtr = s.hpPtr := rfl
@[simp] theorem setWrerr_rr (s : State) : (setWrerr s).rr = s.rr := rfl
@[simp] theorem setWrerr_wr (s : State) : (setWrerr s).wr = s.wr := rfl
@[simp] theorem setWrerr_cr (s : State) : (setWrerr s).cr = s.cr := rfl
@[simp] theorem setWrerr_sr (s : State) : (setWrerr s).sr = s.sr := rfl
@[simp] theorem setWrerr_ar (s : State) : (setWrerr s).ar = s.ar := rfl
@[simp] theorem setWrerr_coef (s : State) : (setWrerr s).coef = s.coef := rfl
@[simp] theorem setWrerr_out (s : State) : (setWrerr s).out = s.out := rfl
@[simp] theorem setWrerr_bus (s : State) : (setWrerr s).bus = s.bus := rfl
@[simp] theorem setWrerr_inputs (s : State) : (setWrerr s).inputs = s.inputs := rfl
@[simp] theorem setWrerr_rdata (s : State) : (setWrerr s).rdata = s.rdata := rfl
@[simp] theorem setWrerr_overwritten (s : State) : (setWrerr s).overwritten = s.overwritten := rfl
@[simp] theorem setWrerr_hostOut (s : State) : (setWrerr s).hostOut = s.hostOut := rfl
@[simp] theorem setWrerr_freeCount (s : State) : (setWrerr s).freeCount = s.freeCount := rfl
@[simp] theorem setWrerr_params (s : State) : (setWrerr s).params = s.params := rfl

/-! ### A use of free values -/

@[simp] theorem useFree_phase (s : State) : (useFree s).phase = s.phase := rfl
@[simp] theorem useFree_row (s : State) : (useFree s).row = s.row := rfl
@[simp] theorem useFree_stage (s : State) : (useFree s).stage = s.stage := rfl
@[simp] theorem useFree_wrerr (s : State) : (useFree s).wrerr = s.wrerr := rfl
@[simp] theorem useFree_faultRec (s : State) : (useFree s).faultRec = s.faultRec := rfl
@[simp] theorem useFree_irqen (s : State) : (useFree s).irqen = s.irqen := rfl
@[simp] theorem useFree_scw (s : State) : (useFree s).scw = s.scw := rfl
@[simp] theorem useFree_prec (s : State) : (useFree s).prec = s.prec := rfl
@[simp] theorem useFree_roi (s : State) : (useFree s).roi = s.roi := rfl
@[simp] theorem useFree_diffoff (s : State) : (useFree s).diffoff = s.diffoff := rfl
@[simp] theorem useFree_alphaDc (s : State) : (useFree s).alphaDc = s.alphaDc := rfl
@[simp] theorem useFree_alphaGain (s : State) : (useFree s).alphaGain = s.alphaGain := rfl
@[simp] theorem useFree_alphaScale (s : State) : (useFree s).alphaScale = s.alphaScale := rfl
@[simp] theorem useFree_outBase (s : State) : (useFree s).outBase = s.outBase := rfl
@[simp] theorem useFree_outPitch (s : State) : (useFree s).outPitch = s.outPitch := rfl
@[simp] theorem useFree_lpBase (s : State) : (useFree s).lpBase = s.lpBase := rfl
@[simp] theorem useFree_hpBase (s : State) : (useFree s).hpBase = s.hpBase := rfl
@[simp] theorem useFree_lpPitch (s : State) : (useFree s).lpPitch = s.lpPitch := rfl
@[simp] theorem useFree_hpPitch (s : State) : (useFree s).hpPitch = s.hpPitch := rfl
@[simp] theorem useFree_outPtr (s : State) : (useFree s).outPtr = s.outPtr := rfl
@[simp] theorem useFree_lpPtr (s : State) : (useFree s).lpPtr = s.lpPtr := rfl
@[simp] theorem useFree_hpPtr (s : State) : (useFree s).hpPtr = s.hpPtr := rfl
@[simp] theorem useFree_rr (s : State) : (useFree s).rr = s.rr := rfl
@[simp] theorem useFree_wr (s : State) : (useFree s).wr = s.wr := rfl
@[simp] theorem useFree_cr (s : State) : (useFree s).cr = s.cr := rfl
@[simp] theorem useFree_sr (s : State) : (useFree s).sr = s.sr := rfl
@[simp] theorem useFree_ar (s : State) : (useFree s).ar = s.ar := rfl
@[simp] theorem useFree_coef (s : State) : (useFree s).coef = s.coef := rfl
@[simp] theorem useFree_out (s : State) : (useFree s).out = s.out := rfl
@[simp] theorem useFree_bus (s : State) : (useFree s).bus = s.bus := rfl
@[simp] theorem useFree_inputs (s : State) : (useFree s).inputs = s.inputs := rfl
@[simp] theorem useFree_rdata (s : State) : (useFree s).rdata = s.rdata := rfl
@[simp] theorem useFree_overwritten (s : State) : (useFree s).overwritten = s.overwritten := rfl
@[simp] theorem useFree_hostOut (s : State) : (useFree s).hostOut = s.hostOut := rfl
@[simp] theorem useFree_freeCount (s : State) : (useFree s).freeCount = s.freeCount + 1 := rfl
@[simp] theorem useFree_params (s : State) : (useFree s).params = s.params := rfl

/-! ### A row written, whole or in part (R64, U7) -/

@[simp] theorem writeRow_phase (keep : Nat → Bool) (b : List Byte) (s : State) : (writeRow keep b s).phase = s.phase := rfl
@[simp] theorem writeRow_row (keep : Nat → Bool) (b : List Byte) (s : State) : (writeRow keep b s).row = s.row := rfl
@[simp] theorem writeRow_stage (keep : Nat → Bool) (b : List Byte) (s : State) : (writeRow keep b s).stage = s.stage := rfl
@[simp] theorem writeRow_wrerr (keep : Nat → Bool) (b : List Byte) (s : State) : (writeRow keep b s).wrerr = s.wrerr := rfl
@[simp] theorem writeRow_faultRec (keep : Nat → Bool) (b : List Byte) (s : State) : (writeRow keep b s).faultRec = s.faultRec := rfl
@[simp] theorem writeRow_irqen (keep : Nat → Bool) (b : List Byte) (s : State) : (writeRow keep b s).irqen = s.irqen := rfl
@[simp] theorem writeRow_scw (keep : Nat → Bool) (b : List Byte) (s : State) : (writeRow keep b s).scw = s.scw := rfl
@[simp] theorem writeRow_prec (keep : Nat → Bool) (b : List Byte) (s : State) : (writeRow keep b s).prec = s.prec := rfl
@[simp] theorem writeRow_roi (keep : Nat → Bool) (b : List Byte) (s : State) : (writeRow keep b s).roi = s.roi := rfl
@[simp] theorem writeRow_diffoff (keep : Nat → Bool) (b : List Byte) (s : State) : (writeRow keep b s).diffoff = s.diffoff := rfl
@[simp] theorem writeRow_alphaDc (keep : Nat → Bool) (b : List Byte) (s : State) : (writeRow keep b s).alphaDc = s.alphaDc := rfl
@[simp] theorem writeRow_alphaGain (keep : Nat → Bool) (b : List Byte) (s : State) : (writeRow keep b s).alphaGain = s.alphaGain := rfl
@[simp] theorem writeRow_alphaScale (keep : Nat → Bool) (b : List Byte) (s : State) : (writeRow keep b s).alphaScale = s.alphaScale := rfl
@[simp] theorem writeRow_outBase (keep : Nat → Bool) (b : List Byte) (s : State) : (writeRow keep b s).outBase = s.outBase := rfl
@[simp] theorem writeRow_outPitch (keep : Nat → Bool) (b : List Byte) (s : State) : (writeRow keep b s).outPitch = s.outPitch := rfl
@[simp] theorem writeRow_lpBase (keep : Nat → Bool) (b : List Byte) (s : State) : (writeRow keep b s).lpBase = s.lpBase := rfl
@[simp] theorem writeRow_hpBase (keep : Nat → Bool) (b : List Byte) (s : State) : (writeRow keep b s).hpBase = s.hpBase := rfl
@[simp] theorem writeRow_lpPitch (keep : Nat → Bool) (b : List Byte) (s : State) : (writeRow keep b s).lpPitch = s.lpPitch := rfl
@[simp] theorem writeRow_hpPitch (keep : Nat → Bool) (b : List Byte) (s : State) : (writeRow keep b s).hpPitch = s.hpPitch := rfl
@[simp] theorem writeRow_outPtr (keep : Nat → Bool) (b : List Byte) (s : State) : (writeRow keep b s).outPtr = s.outPtr := rfl
@[simp] theorem writeRow_lpPtr (keep : Nat → Bool) (b : List Byte) (s : State) : (writeRow keep b s).lpPtr = s.lpPtr := rfl
@[simp] theorem writeRow_hpPtr (keep : Nat → Bool) (b : List Byte) (s : State) : (writeRow keep b s).hpPtr = s.hpPtr := rfl
@[simp] theorem writeRow_rr (keep : Nat → Bool) (b : List Byte) (s : State) : (writeRow keep b s).rr = s.rr := rfl
@[simp] theorem writeRow_wr (keep : Nat → Bool) (b : List Byte) (s : State) : (writeRow keep b s).wr = s.wr := rfl
@[simp] theorem writeRow_cr (keep : Nat → Bool) (b : List Byte) (s : State) : (writeRow keep b s).cr = s.cr := rfl
@[simp] theorem writeRow_sr (keep : Nat → Bool) (b : List Byte) (s : State) : (writeRow keep b s).sr = s.sr := rfl
@[simp] theorem writeRow_ar (keep : Nat → Bool) (b : List Byte) (s : State) : (writeRow keep b s).ar = s.ar := rfl
@[simp] theorem writeRow_coef (keep : Nat → Bool) (b : List Byte) (s : State) : (writeRow keep b s).coef = s.coef := rfl
@[simp] theorem writeRow_out (keep : Nat → Bool) (b : List Byte) (s : State) : (writeRow keep b s).out = writeChosen keep 0 s.out s.outPtr (contend s b) := rfl
@[simp] theorem writeRow_bus (keep : Nat → Bool) (b : List Byte) (s : State) : (writeRow keep b s).bus = s.bus := rfl
@[simp] theorem writeRow_inputs (keep : Nat → Bool) (b : List Byte) (s : State) : (writeRow keep b s).inputs = s.inputs := rfl
@[simp] theorem writeRow_rdata (keep : Nat → Bool) (b : List Byte) (s : State) : (writeRow keep b s).rdata = s.rdata := rfl
@[simp] theorem writeRow_overwritten (keep : Nat → Bool) (b : List Byte) (s : State) : (writeRow keep b s).overwritten = s.overwritten := rfl
@[simp] theorem writeRow_hostOut (keep : Nat → Bool) (b : List Byte) (s : State) : (writeRow keep b s).hostOut = s.hostOut := rfl
@[simp] theorem writeRow_freeCount (keep : Nat → Bool) (b : List Byte) (s : State) : (writeRow keep b s).freeCount = s.freeCount + 1 := rfl
@[simp] theorem writeRow_params (keep : Nat → Bool) (b : List Byte) (s : State) : (writeRow keep b s).params = s.params := rfl
@[simp] theorem writeWhole_phase (b : List Byte) (s : State) : (writeWhole b s).phase = s.phase := rfl
@[simp] theorem writeWhole_row (b : List Byte) (s : State) : (writeWhole b s).row = s.row := rfl
@[simp] theorem writeWhole_stage (b : List Byte) (s : State) : (writeWhole b s).stage = s.stage := rfl
@[simp] theorem writeWhole_wrerr (b : List Byte) (s : State) : (writeWhole b s).wrerr = s.wrerr := rfl
@[simp] theorem writeWhole_faultRec (b : List Byte) (s : State) : (writeWhole b s).faultRec = s.faultRec := rfl
@[simp] theorem writeWhole_irqen (b : List Byte) (s : State) : (writeWhole b s).irqen = s.irqen := rfl
@[simp] theorem writeWhole_scw (b : List Byte) (s : State) : (writeWhole b s).scw = s.scw := rfl
@[simp] theorem writeWhole_prec (b : List Byte) (s : State) : (writeWhole b s).prec = s.prec := rfl
@[simp] theorem writeWhole_roi (b : List Byte) (s : State) : (writeWhole b s).roi = s.roi := rfl
@[simp] theorem writeWhole_diffoff (b : List Byte) (s : State) : (writeWhole b s).diffoff = s.diffoff := rfl
@[simp] theorem writeWhole_alphaDc (b : List Byte) (s : State) : (writeWhole b s).alphaDc = s.alphaDc := rfl
@[simp] theorem writeWhole_alphaGain (b : List Byte) (s : State) : (writeWhole b s).alphaGain = s.alphaGain := rfl
@[simp] theorem writeWhole_alphaScale (b : List Byte) (s : State) : (writeWhole b s).alphaScale = s.alphaScale := rfl
@[simp] theorem writeWhole_outBase (b : List Byte) (s : State) : (writeWhole b s).outBase = s.outBase := rfl
@[simp] theorem writeWhole_outPitch (b : List Byte) (s : State) : (writeWhole b s).outPitch = s.outPitch := rfl
@[simp] theorem writeWhole_lpBase (b : List Byte) (s : State) : (writeWhole b s).lpBase = s.lpBase := rfl
@[simp] theorem writeWhole_hpBase (b : List Byte) (s : State) : (writeWhole b s).hpBase = s.hpBase := rfl
@[simp] theorem writeWhole_lpPitch (b : List Byte) (s : State) : (writeWhole b s).lpPitch = s.lpPitch := rfl
@[simp] theorem writeWhole_hpPitch (b : List Byte) (s : State) : (writeWhole b s).hpPitch = s.hpPitch := rfl
@[simp] theorem writeWhole_outPtr (b : List Byte) (s : State) : (writeWhole b s).outPtr = s.outPtr := rfl
@[simp] theorem writeWhole_lpPtr (b : List Byte) (s : State) : (writeWhole b s).lpPtr = s.lpPtr := rfl
@[simp] theorem writeWhole_hpPtr (b : List Byte) (s : State) : (writeWhole b s).hpPtr = s.hpPtr := rfl
@[simp] theorem writeWhole_rr (b : List Byte) (s : State) : (writeWhole b s).rr = s.rr := rfl
@[simp] theorem writeWhole_wr (b : List Byte) (s : State) : (writeWhole b s).wr = s.wr := rfl
@[simp] theorem writeWhole_cr (b : List Byte) (s : State) : (writeWhole b s).cr = s.cr := rfl
@[simp] theorem writeWhole_sr (b : List Byte) (s : State) : (writeWhole b s).sr = s.sr := rfl
@[simp] theorem writeWhole_ar (b : List Byte) (s : State) : (writeWhole b s).ar = s.ar := rfl
@[simp] theorem writeWhole_coef (b : List Byte) (s : State) : (writeWhole b s).coef = s.coef := rfl
@[simp] theorem writeWhole_out (b : List Byte) (s : State) : (writeWhole b s).out = writeChosen (fun _ => true) 0 s.out s.outPtr (contend s b) := rfl
@[simp] theorem writeWhole_bus (b : List Byte) (s : State) : (writeWhole b s).bus = s.bus := rfl
@[simp] theorem writeWhole_inputs (b : List Byte) (s : State) : (writeWhole b s).inputs = s.inputs := rfl
@[simp] theorem writeWhole_rdata (b : List Byte) (s : State) : (writeWhole b s).rdata = s.rdata := rfl
@[simp] theorem writeWhole_overwritten (b : List Byte) (s : State) : (writeWhole b s).overwritten = s.overwritten := rfl
@[simp] theorem writeWhole_hostOut (b : List Byte) (s : State) : (writeWhole b s).hostOut = s.hostOut := rfl
@[simp] theorem writeWhole_freeCount (b : List Byte) (s : State) : (writeWhole b s).freeCount = s.freeCount + 1 := rfl
@[simp] theorem writeWhole_params (b : List Byte) (s : State) : (writeWhole b s).params = s.params := rfl
@[simp] theorem writePartly_phase (b : List Byte) (s : State) : (writePartly b s).phase = s.phase := rfl
@[simp] theorem writePartly_row (b : List Byte) (s : State) : (writePartly b s).row = s.row := rfl
@[simp] theorem writePartly_stage (b : List Byte) (s : State) : (writePartly b s).stage = s.stage := rfl
@[simp] theorem writePartly_wrerr (b : List Byte) (s : State) : (writePartly b s).wrerr = s.wrerr := rfl
@[simp] theorem writePartly_faultRec (b : List Byte) (s : State) : (writePartly b s).faultRec = s.faultRec := rfl
@[simp] theorem writePartly_irqen (b : List Byte) (s : State) : (writePartly b s).irqen = s.irqen := rfl
@[simp] theorem writePartly_scw (b : List Byte) (s : State) : (writePartly b s).scw = s.scw := rfl
@[simp] theorem writePartly_prec (b : List Byte) (s : State) : (writePartly b s).prec = s.prec := rfl
@[simp] theorem writePartly_roi (b : List Byte) (s : State) : (writePartly b s).roi = s.roi := rfl
@[simp] theorem writePartly_diffoff (b : List Byte) (s : State) : (writePartly b s).diffoff = s.diffoff := rfl
@[simp] theorem writePartly_alphaDc (b : List Byte) (s : State) : (writePartly b s).alphaDc = s.alphaDc := rfl
@[simp] theorem writePartly_alphaGain (b : List Byte) (s : State) : (writePartly b s).alphaGain = s.alphaGain := rfl
@[simp] theorem writePartly_alphaScale (b : List Byte) (s : State) : (writePartly b s).alphaScale = s.alphaScale := rfl
@[simp] theorem writePartly_outBase (b : List Byte) (s : State) : (writePartly b s).outBase = s.outBase := rfl
@[simp] theorem writePartly_outPitch (b : List Byte) (s : State) : (writePartly b s).outPitch = s.outPitch := rfl
@[simp] theorem writePartly_lpBase (b : List Byte) (s : State) : (writePartly b s).lpBase = s.lpBase := rfl
@[simp] theorem writePartly_hpBase (b : List Byte) (s : State) : (writePartly b s).hpBase = s.hpBase := rfl
@[simp] theorem writePartly_lpPitch (b : List Byte) (s : State) : (writePartly b s).lpPitch = s.lpPitch := rfl
@[simp] theorem writePartly_hpPitch (b : List Byte) (s : State) : (writePartly b s).hpPitch = s.hpPitch := rfl
@[simp] theorem writePartly_outPtr (b : List Byte) (s : State) : (writePartly b s).outPtr = s.outPtr := rfl
@[simp] theorem writePartly_lpPtr (b : List Byte) (s : State) : (writePartly b s).lpPtr = s.lpPtr := rfl
@[simp] theorem writePartly_hpPtr (b : List Byte) (s : State) : (writePartly b s).hpPtr = s.hpPtr := rfl
@[simp] theorem writePartly_rr (b : List Byte) (s : State) : (writePartly b s).rr = s.rr := rfl
@[simp] theorem writePartly_wr (b : List Byte) (s : State) : (writePartly b s).wr = s.wr := rfl
@[simp] theorem writePartly_cr (b : List Byte) (s : State) : (writePartly b s).cr = s.cr := rfl
@[simp] theorem writePartly_sr (b : List Byte) (s : State) : (writePartly b s).sr = s.sr := rfl
@[simp] theorem writePartly_ar (b : List Byte) (s : State) : (writePartly b s).ar = s.ar := rfl
@[simp] theorem writePartly_coef (b : List Byte) (s : State) : (writePartly b s).coef = s.coef := rfl
@[simp] theorem writePartly_out (b : List Byte) (s : State) : (writePartly b s).out = writeChosen (Config.byteLanded s.freeCount) 0 s.out s.outPtr (contend s b) := rfl
@[simp] theorem writePartly_bus (b : List Byte) (s : State) : (writePartly b s).bus = s.bus := rfl
@[simp] theorem writePartly_inputs (b : List Byte) (s : State) : (writePartly b s).inputs = s.inputs := rfl
@[simp] theorem writePartly_rdata (b : List Byte) (s : State) : (writePartly b s).rdata = s.rdata := rfl
@[simp] theorem writePartly_overwritten (b : List Byte) (s : State) : (writePartly b s).overwritten = s.overwritten := rfl
@[simp] theorem writePartly_hostOut (b : List Byte) (s : State) : (writePartly b s).hostOut = s.hostOut := rfl
@[simp] theorem writePartly_freeCount (b : List Byte) (s : State) : (writePartly b s).freeCount = s.freeCount + 1 := rfl
@[simp] theorem writePartly_params (b : List Byte) (s : State) : (writePartly b s).params = s.params := rfl

/-! ### The begin of a strip (R213) -/

@[simp] theorem beginStrip_phase (s : State) : (beginStrip s).phase = if height s = 0 then .done else .busy := rfl
@[simp] theorem beginStrip_row (s : State) : (beginStrip s).row = 0 := rfl
@[simp] theorem beginStrip_stage (s : State) : (beginStrip s).stage = 0 := rfl
@[simp] theorem beginStrip_wrerr (s : State) : (beginStrip s).wrerr = s.wrerr := rfl
@[simp] theorem beginStrip_faultRec (s : State) : (beginStrip s).faultRec = s.faultRec := rfl
@[simp] theorem beginStrip_irqen (s : State) : (beginStrip s).irqen = s.irqen := rfl
@[simp] theorem beginStrip_scw (s : State) : (beginStrip s).scw = s.scw := rfl
@[simp] theorem beginStrip_prec (s : State) : (beginStrip s).prec = s.prec := rfl
@[simp] theorem beginStrip_roi (s : State) : (beginStrip s).roi = s.roi := rfl
@[simp] theorem beginStrip_diffoff (s : State) : (beginStrip s).diffoff = s.diffoff := rfl
@[simp] theorem beginStrip_alphaDc (s : State) : (beginStrip s).alphaDc = s.alphaDc := rfl
@[simp] theorem beginStrip_alphaGain (s : State) : (beginStrip s).alphaGain = s.alphaGain := rfl
@[simp] theorem beginStrip_alphaScale (s : State) : (beginStrip s).alphaScale = s.alphaScale := rfl
@[simp] theorem beginStrip_outBase (s : State) : (beginStrip s).outBase = s.outBase := rfl
@[simp] theorem beginStrip_outPitch (s : State) : (beginStrip s).outPitch = s.outPitch := rfl
@[simp] theorem beginStrip_lpBase (s : State) : (beginStrip s).lpBase = s.lpBase := rfl
@[simp] theorem beginStrip_hpBase (s : State) : (beginStrip s).hpBase = s.hpBase := rfl
@[simp] theorem beginStrip_lpPitch (s : State) : (beginStrip s).lpPitch = s.lpPitch := rfl
@[simp] theorem beginStrip_hpPitch (s : State) : (beginStrip s).hpPitch = s.hpPitch := rfl
@[simp] theorem beginStrip_outPtr (s : State) : (beginStrip s).outPtr = s.outBase := rfl
@[simp] theorem beginStrip_lpPtr (s : State) : (beginStrip s).lpPtr = s.lpBase := rfl
@[simp] theorem beginStrip_hpPtr (s : State) : (beginStrip s).hpPtr = s.hpBase := rfl
@[simp] theorem beginStrip_rr (s : State) : (beginStrip s).rr = noRows := rfl
@[simp] theorem beginStrip_wr (s : State) : (beginStrip s).wr = noRows := rfl
@[simp] theorem beginStrip_cr (s : State) : (beginStrip s).cr = ⟨[], [], []⟩ := rfl
@[simp] theorem beginStrip_sr (s : State) : (beginStrip s).sr = ⟨[], []⟩ := rfl
@[simp] theorem beginStrip_ar (s : State) : (beginStrip s).ar = [] := rfl
@[simp] theorem beginStrip_coef (s : State) : (beginStrip s).coef = s.coef := rfl
@[simp] theorem beginStrip_out (s : State) : (beginStrip s).out = s.out := rfl
@[simp] theorem beginStrip_bus (s : State) : (beginStrip s).bus = s.bus := rfl
@[simp] theorem beginStrip_inputs (s : State) : (beginStrip s).inputs = s.inputs := rfl
@[simp] theorem beginStrip_rdata (s : State) : (beginStrip s).rdata = s.rdata := rfl
@[simp] theorem beginStrip_overwritten (s : State) : (beginStrip s).overwritten = [] := rfl
@[simp] theorem beginStrip_hostOut (s : State) : (beginStrip s).hostOut = [] := rfl
@[simp] theorem beginStrip_freeCount (s : State) : (beginStrip s).freeCount = s.freeCount := rfl
@[simp] theorem beginStrip_params (s : State) : (beginStrip s).params = s.params := rfl

/-! ### A register write (R31): what no descriptor write changes -/

@[simp] theorem storeDescriptor_phase (r : Reg) (v : Word) (s : State) : (storeDescriptor r v s).phase = s.phase := by cases r <;> rfl
@[simp] theorem storeDescriptor_row (r : Reg) (v : Word) (s : State) : (storeDescriptor r v s).row = s.row := by cases r <;> rfl
@[simp] theorem storeDescriptor_stage (r : Reg) (v : Word) (s : State) : (storeDescriptor r v s).stage = s.stage := by cases r <;> rfl
@[simp] theorem storeDescriptor_wrerr (r : Reg) (v : Word) (s : State) : (storeDescriptor r v s).wrerr = s.wrerr := by cases r <;> rfl
@[simp] theorem storeDescriptor_faultRec (r : Reg) (v : Word) (s : State) : (storeDescriptor r v s).faultRec = s.faultRec := by cases r <;> rfl
@[simp] theorem storeDescriptor_irqen (r : Reg) (v : Word) (s : State) : (storeDescriptor r v s).irqen = s.irqen := by cases r <;> rfl
@[simp] theorem storeDescriptor_outPtr (r : Reg) (v : Word) (s : State) : (storeDescriptor r v s).outPtr = s.outPtr := by cases r <;> rfl
@[simp] theorem storeDescriptor_lpPtr (r : Reg) (v : Word) (s : State) : (storeDescriptor r v s).lpPtr = s.lpPtr := by cases r <;> rfl
@[simp] theorem storeDescriptor_hpPtr (r : Reg) (v : Word) (s : State) : (storeDescriptor r v s).hpPtr = s.hpPtr := by cases r <;> rfl
@[simp] theorem storeDescriptor_rr (r : Reg) (v : Word) (s : State) : (storeDescriptor r v s).rr = s.rr := by cases r <;> rfl
@[simp] theorem storeDescriptor_wr (r : Reg) (v : Word) (s : State) : (storeDescriptor r v s).wr = s.wr := by cases r <;> rfl
@[simp] theorem storeDescriptor_cr (r : Reg) (v : Word) (s : State) : (storeDescriptor r v s).cr = s.cr := by cases r <;> rfl
@[simp] theorem storeDescriptor_sr (r : Reg) (v : Word) (s : State) : (storeDescriptor r v s).sr = s.sr := by cases r <;> rfl
@[simp] theorem storeDescriptor_ar (r : Reg) (v : Word) (s : State) : (storeDescriptor r v s).ar = s.ar := by cases r <;> rfl
@[simp] theorem storeDescriptor_coef (r : Reg) (v : Word) (s : State) : (storeDescriptor r v s).coef = s.coef := by cases r <;> rfl
@[simp] theorem storeDescriptor_out (r : Reg) (v : Word) (s : State) : (storeDescriptor r v s).out = s.out := by cases r <;> rfl
@[simp] theorem storeDescriptor_bus (r : Reg) (v : Word) (s : State) : (storeDescriptor r v s).bus = s.bus := by cases r <;> rfl
@[simp] theorem storeDescriptor_inputs (r : Reg) (v : Word) (s : State) : (storeDescriptor r v s).inputs = s.inputs := by cases r <;> rfl
@[simp] theorem storeDescriptor_rdata (r : Reg) (v : Word) (s : State) : (storeDescriptor r v s).rdata = s.rdata := by cases r <;> rfl
@[simp] theorem storeDescriptor_overwritten (r : Reg) (v : Word) (s : State) : (storeDescriptor r v s).overwritten = s.overwritten := by cases r <;> rfl
@[simp] theorem storeDescriptor_hostOut (r : Reg) (v : Word) (s : State) : (storeDescriptor r v s).hostOut = s.hostOut := by cases r <;> rfl
@[simp] theorem storeDescriptor_freeCount (r : Reg) (v : Word) (s : State) : (storeDescriptor r v s).freeCount = s.freeCount := by cases r <;> rfl
@[simp] theorem storeDescriptor_params (r : Reg) (v : Word) (s : State) : (storeDescriptor r v s).params = s.params := by cases r <;> rfl

/-! ### STAGE after an operation (R226): every other field -/

@[simp] theorem advanceStage_phase (i : Instr) (t : State) : (advanceStage i t).phase = t.phase := by unfold advanceStage; split <;> rfl
@[simp] theorem advanceStage_row (i : Instr) (t : State) : (advanceStage i t).row = t.row := by unfold advanceStage; split <;> rfl
@[simp] theorem advanceStage_wrerr (i : Instr) (t : State) : (advanceStage i t).wrerr = t.wrerr := by unfold advanceStage; split <;> rfl
@[simp] theorem advanceStage_faultRec (i : Instr) (t : State) : (advanceStage i t).faultRec = t.faultRec := by unfold advanceStage; split <;> rfl
@[simp] theorem advanceStage_irqen (i : Instr) (t : State) : (advanceStage i t).irqen = t.irqen := by unfold advanceStage; split <;> rfl
@[simp] theorem advanceStage_scw (i : Instr) (t : State) : (advanceStage i t).scw = t.scw := by unfold advanceStage; split <;> rfl
@[simp] theorem advanceStage_prec (i : Instr) (t : State) : (advanceStage i t).prec = t.prec := by unfold advanceStage; split <;> rfl
@[simp] theorem advanceStage_roi (i : Instr) (t : State) : (advanceStage i t).roi = t.roi := by unfold advanceStage; split <;> rfl
@[simp] theorem advanceStage_diffoff (i : Instr) (t : State) : (advanceStage i t).diffoff = t.diffoff := by unfold advanceStage; split <;> rfl
@[simp] theorem advanceStage_alphaDc (i : Instr) (t : State) : (advanceStage i t).alphaDc = t.alphaDc := by unfold advanceStage; split <;> rfl
@[simp] theorem advanceStage_alphaGain (i : Instr) (t : State) : (advanceStage i t).alphaGain = t.alphaGain := by unfold advanceStage; split <;> rfl
@[simp] theorem advanceStage_alphaScale (i : Instr) (t : State) : (advanceStage i t).alphaScale = t.alphaScale := by unfold advanceStage; split <;> rfl
@[simp] theorem advanceStage_outBase (i : Instr) (t : State) : (advanceStage i t).outBase = t.outBase := by unfold advanceStage; split <;> rfl
@[simp] theorem advanceStage_outPitch (i : Instr) (t : State) : (advanceStage i t).outPitch = t.outPitch := by unfold advanceStage; split <;> rfl
@[simp] theorem advanceStage_lpBase (i : Instr) (t : State) : (advanceStage i t).lpBase = t.lpBase := by unfold advanceStage; split <;> rfl
@[simp] theorem advanceStage_hpBase (i : Instr) (t : State) : (advanceStage i t).hpBase = t.hpBase := by unfold advanceStage; split <;> rfl
@[simp] theorem advanceStage_lpPitch (i : Instr) (t : State) : (advanceStage i t).lpPitch = t.lpPitch := by unfold advanceStage; split <;> rfl
@[simp] theorem advanceStage_hpPitch (i : Instr) (t : State) : (advanceStage i t).hpPitch = t.hpPitch := by unfold advanceStage; split <;> rfl
@[simp] theorem advanceStage_outPtr (i : Instr) (t : State) : (advanceStage i t).outPtr = t.outPtr := by unfold advanceStage; split <;> rfl
@[simp] theorem advanceStage_lpPtr (i : Instr) (t : State) : (advanceStage i t).lpPtr = t.lpPtr := by unfold advanceStage; split <;> rfl
@[simp] theorem advanceStage_hpPtr (i : Instr) (t : State) : (advanceStage i t).hpPtr = t.hpPtr := by unfold advanceStage; split <;> rfl
@[simp] theorem advanceStage_rr (i : Instr) (t : State) : (advanceStage i t).rr = t.rr := by unfold advanceStage; split <;> rfl
@[simp] theorem advanceStage_wr (i : Instr) (t : State) : (advanceStage i t).wr = t.wr := by unfold advanceStage; split <;> rfl
@[simp] theorem advanceStage_cr (i : Instr) (t : State) : (advanceStage i t).cr = t.cr := by unfold advanceStage; split <;> rfl
@[simp] theorem advanceStage_sr (i : Instr) (t : State) : (advanceStage i t).sr = t.sr := by unfold advanceStage; split <;> rfl
@[simp] theorem advanceStage_ar (i : Instr) (t : State) : (advanceStage i t).ar = t.ar := by unfold advanceStage; split <;> rfl
@[simp] theorem advanceStage_coef (i : Instr) (t : State) : (advanceStage i t).coef = t.coef := by unfold advanceStage; split <;> rfl
@[simp] theorem advanceStage_out (i : Instr) (t : State) : (advanceStage i t).out = t.out := by unfold advanceStage; split <;> rfl
@[simp] theorem advanceStage_bus (i : Instr) (t : State) : (advanceStage i t).bus = t.bus := by unfold advanceStage; split <;> rfl
@[simp] theorem advanceStage_inputs (i : Instr) (t : State) : (advanceStage i t).inputs = t.inputs := by unfold advanceStage; split <;> rfl
@[simp] theorem advanceStage_rdata (i : Instr) (t : State) : (advanceStage i t).rdata = t.rdata := by unfold advanceStage; split <;> rfl
@[simp] theorem advanceStage_overwritten (i : Instr) (t : State) : (advanceStage i t).overwritten = t.overwritten := by unfold advanceStage; split <;> rfl
@[simp] theorem advanceStage_hostOut (i : Instr) (t : State) : (advanceStage i t).hostOut = t.hostOut := by unfold advanceStage; split <;> rfl
@[simp] theorem advanceStage_freeCount (i : Instr) (t : State) : (advanceStage i t).freeCount = t.freeCount := by unfold advanceStage; split <;> rfl
@[simp] theorem advanceStage_params (i : Instr) (t : State) : (advanceStage i t).params = t.params := by unfold advanceStage; split <;> rfl

end Sys2Proof.Machine
end

