-- ==== Sys2Proof/Laws/Ops.lean ====
section
/-! SUPPORT. One lemma per shared operation: everything it can do, for the proofs to cite instead of unfolding it. -/

namespace Sys2Proof.Machine

/-! ### Phases -/

theorem acceptsStart_iff (p : Phase) : acceptsStart p = true ↔ p = .idle ∨ p = .done := by
  cases p <;> decide

@[simp] theorem acceptsStart_busy : acceptsStart .busy = false := rfl
@[simp] theorem acceptsStart_fault : acceptsStart .fault = false := rfl
@[simp] theorem acceptsStart_idle : acceptsStart .idle = true := rfl
@[simp] theorem acceptsStart_done : acceptsStart .done = true := rfl

/-! ### Coefficient reads -/

theorem anyChannel_iff (p : Fin 4 → Bool) : ([0, 1, 2, 3] : List (Fin 4)).any p = true ↔ ∃ ch, p ch = true := by
  simp only [List.any_cons, List.any_nil, Bool.or_false, Bool.or_eq_true]
  constructor
  · rintro (h | h | h | h) <;> exact ⟨_, h⟩
  · rintro ⟨ch, h⟩
    match ch with
    | 0 => exact .inl h
    | 1 => exact .inr (.inl h)
    | 2 => exact .inr (.inr (.inl h))
    | 3 => exact .inr (.inr (.inr h))

theorem mem_allChannels (ch : Fin 4) : ch ∈ ([0, 1, 2, 3] : List (Fin 4)) := by
  match ch with
  | 0 => decide
  | 1 => decide
  | 2 => decide
  | 3 => decide

/-- A SYN operation has a channel it cannot compute exactly when one in use has one or two coefficients. -/
theorem narrowChannel_iff (s : State) :
    narrowChannel s = true ↔ ∃ ch, inUse s ch = true ∧ 0 < chanCount s ch ∧ chanCount s ch < 3 := by
  unfold narrowChannel
  rw [anyChannel_iff]
  simp [and_assoc]

theorem narrowChannel_of_wide {s : State} (h : ChannelsWide s) : narrowChannel s = false := by
  rw [← Bool.not_eq_true, narrowChannel_iff]
  rintro ⟨ch, hu, -, hn⟩
  have := h ch hu
  omega

/-- What the failing reads of a SYN operation are (R246). -/
theorem mem_failingReads (s : State) (e : BitVec 2 × BitVec 2) :
    e ∈ failingReads s ↔ ∃ ch, inUse s ch = true ∧ e.1 = BitVec.ofFin ch ∧
      ((e.2 = 1 ∧ ∃ c, c < chanCount s ch ∧ coefFails s (s.lpPtr.get ch + BitVec.ofNat 32 c) = true) ∨
        (e.2 = 2 ∧ ∃ c, c < chanCount s ch ∧ coefFails s (s.hpPtr.get ch + BitVec.ofNat 32 c) = true)) := by
  unfold failingReads
  simp only [List.mem_flatMap, List.mem_filter, List.mem_range, List.mem_append]
  constructor
  · rintro ⟨ch, ⟨-, hu⟩, c, hc, h | h⟩
    · split at h
      · rename_i hf
        rw [List.mem_singleton] at h; subst h
        exact ⟨ch, hu, rfl, .inl ⟨rfl, c, hc, hf⟩⟩
      · simp at h
    · split at h
      · rename_i hf
        rw [List.mem_singleton] at h; subst h
        exact ⟨ch, hu, rfl, .inr ⟨rfl, c, hc, hf⟩⟩
      · simp at h
  · obtain ⟨x, y⟩ := e
    rintro ⟨ch, hu, he, ⟨hb, c, hc, hf⟩ | ⟨hb, c, hc, hf⟩⟩ <;> simp only at he hb <;> subst he hb
    · exact ⟨ch, ⟨mem_allChannels ch, hu⟩, c, hc, .inl (by simp [hf, bufLow])⟩
    · exact ⟨ch, ⟨mem_allChannels ch, hu⟩, c, hc, .inr (by simp [hf, bufHigh])⟩

theorem failingReads_nil_iff (s : State) : failingReads s = [] ↔ ReadsAnswered s := by
  rw [List.eq_nil_iff_forall_not_mem]
  constructor
  · intro h ch hu c hc
    constructor <;> rw [← Bool.not_eq_true] <;> intro hf
    · exact h (BitVec.ofFin ch, 1) ((mem_failingReads s _).2 ⟨ch, hu, rfl, .inl ⟨rfl, c, hc, hf⟩⟩)
    · exact h (BitVec.ofFin ch, 2) ((mem_failingReads s _).2 ⟨ch, hu, rfl, .inr ⟨rfl, c, hc, hf⟩⟩)
  · intro h e he
    obtain ⟨ch, hu, -, ⟨-, c, hc, hf⟩ | ⟨-, c, hc, hf⟩⟩ := (mem_failingReads s e).1 he
    · simp [(h ch hu c hc).1] at hf
    · simp [(h ch hu c hc).2] at hf

/-- The access CV_BUS reports is one of the failing ones, whatever the free value is. -/
theorem chosen_mem {α : Type} (l : List α) (k : Nat) (d : α) (h : l ≠ []) : l.getD (k % l.length) d ∈ l := by
  have hl : 0 < l.length := List.length_pos_of_ne_nil h
  have hk := Nat.mod_lt k hl
  rw [List.getD_eq_getElem?_getD, List.getElem?_eq_getElem hk]
  exact List.getElem_mem hk

/-! ### Reads of coefficients -/

@[simp] theorem heldSamples_settled {s : State} (h : s.overwritten = []) (a : Word) :
    heldSamples s a = [coefSample s a] := by simp [heldSamples, earlierSamples, h]

/-- A read of a sample returns one of the values it may return. -/
theorem readCoef_mem (s : State) (draw : Nat) (a : Word) : readCoef s draw a ∈ heldSamples s a := by
  unfold readCoef heldSamples
  split
  · simp
  · rename_i earlier h
    have := chosen_mem (coefSample s a :: earlierSamples s a) draw 0 (List.cons_ne_nil _ _)
    simpa [List.length_cons] using this

theorem readLow_mem (s : State) (ch : Fin 4) (i c : Nat) : readLow s ch i c ∈ heldLow s ch c := readCoef_mem s _ _

theorem readHigh_mem (s : State) (ch : Fin 4) (i c : Nat) : readHigh s ch i c ∈ heldHigh s ch c := readCoef_mem s _ _

/-- A sample not written while BUSY is read as it stands (R78). -/
theorem readCoef_settled {s : State} {a : Word} (h : earlierSamples s a = []) (draw : Nat) :
    readCoef s draw a = coefSample s a := by simp [readCoef, h]

/-- What a sum of reads is when the host has written no sample since the strip began: R113 to R115 to the letter. -/
theorem sumOfReads_settled {finish : Int → Int} {s : State} {ch : Fin 4} {v : Option Int}
    {sum : (Nat → Int) → (Nat → Int) → Int} (h : s.overwritten = []) (hv : SumOfReads finish s ch v sum) :
    ∃ lp hp, (∀ c, c < chanCount s ch → lp c = lowpass s ch c ∧ hp c = highpass s ch c) ∧
      v = some (finish (sum lp hp)) := by
  obtain ⟨lp, hp, hc, hv⟩ := hv
  exact ⟨lp, hp, fun c hn => by simpa [heldLow, heldHigh, lowpass, highpass, h] using hc c hn, hv⟩

/-! ### Synthesis -/

/-- Everything a SYN operation can do when it completes or faults. -/
theorem synthesize_eq (finish : Int → Int) (s : State) :
    synthesize finish s =
      if narrowChannel s then .fault .narrowRow
      else if failingReads s = [] then
        .next (useFree { s with rr := .build fun ch => if inUse s ch then synthRow finish s ch else s.rr.get ch })
      else .next (raiseReadFault (failingReads s) s) := by
  unfold synthesize
  split
  · rfl
  · split
    · rename_i h; simp [h]
    · rename_i h; rw [if_neg h]

/-- A SYN operation over wide channels with every read answered. -/
theorem synthesize_answered (finish : Int → Int) {s : State} (hw : ChannelsWide s) (hr : ReadsAnswered s) :
    synthesize finish s =
      .next (useFree { s with rr := .build fun ch => if inUse s ch then synthRow finish s ch else s.rr.get ch }) := by
  rw [synthesize_eq, narrowChannel_of_wide hw, (failingReads_nil_iff s).2 hr]
  simp

/-- What a SYN operation that ends in a next state has done. -/
theorem synthesize_next {finish : Int → Int} {s t : State} (h : synthesize finish s = .next t) :
    narrowChannel s = false ∧
      ((ReadsAnswered s ∧
          t = useFree { s with rr := .build fun ch => if inUse s ch then synthRow finish s ch else s.rr.get ch }) ∨
        (failingReads s ≠ [] ∧ t = raiseReadFault (failingReads s) s)) := by
  rw [synthesize_eq] at h
  split at h
  · cases h
  · rename_i hn
    refine ⟨by simpa using hn, ?_⟩
    split at h
    · rename_i hf; cases h; exact .inl ⟨(failingReads_nil_iff s).1 hf, rfl⟩
    · rename_i hf; cases h; exact .inr ⟨hf, rfl⟩

@[simp] theorem synthRow_length (finish : Int → Int) (s : State) (ch : Fin 4) :
    (synthRow finish s ch).length = 2 * chanCount s ch := by simp [synthRow]

theorem synthRow_getElem? (finish : Int → Int) (s : State) (ch : Fin 4) {i : Nat} (h : i < 2 * chanCount s ch) :
    (synthRow finish s ch)[i]? =
      some (finish (preSum (readLow s ch i) (readHigh s ch i) (chanCount s ch) i)) := by
  rw [synthRow, rowFrom_getElem?, if_pos h]

/-- The even sample of index c (R110). -/
theorem preSum_even (lp hp : Nat → Int) (n c : Nat) : preSum lp hp n (2 * c) = preEven lp hp n c := by
  have h1 : 2 * c % 2 = 0 := by omega
  have h2 : 2 * c / 2 = c := by omega
  rw [preSum, if_pos h1, h2]

/-- The odd sample of index c (R110). -/
theorem preSum_odd (lp hp : Nat → Int) (n c : Nat) : preSum lp hp n (2 * c + 1) = preOdd lp hp n c := by
  have h1 : ¬(2 * c + 1) % 2 = 0 := by omega
  have h2 : (2 * c + 1) / 2 = c := by omega
  rw [preSum, if_neg h1, h2]

/-! ### Rescaling -/

/-- Everything an operation of slot 1 can do. -/
theorem rescaleRows_eq (f : Fin 4 → Nat → Int → Int) (s : State) :
    (RowsHeld s s.rr → rescaleRows f s =
      .next { s with wr := .build fun ch => if inUse s ch then rescaledRow f s ch else s.wr.get ch }) ∧
    (¬RowsHeld s s.rr → rescaleRows f s = .fault .unwrittenElement) := by
  unfold rescaleRows RowsHeld
  rw [← channelsWritten_iff]
  constructor <;> intro h <;> simp [h]

theorem rescaleRows_next {f : Fin 4 → Nat → Int → Int} {s t : State} (h : rescaleRows f s = .next t) :
    RowsHeld s s.rr ∧
      t = { s with wr := .build fun ch => if inUse s ch then rescaledRow f s ch else s.wr.get ch } := by
  by_cases hr : RowsHeld s s.rr
  · rw [(rescaleRows_eq f s).1 hr] at h; cases h; exact ⟨hr, rfl⟩
  · rw [(rescaleRows_eq f s).2 hr] at h; cases h

@[simp] theorem rescaledRow_length (f : Fin 4 → Nat → Int → Int) (s : State) (ch : Fin 4) :
    (rescaledRow f s ch).length = 2 * chanCount s ch := by simp [rescaledRow]

theorem rescaledRow_getElem? (f : Fin 4 → Nat → Int → Int) (s : State) (ch : Fin 4) {i : Nat}
    (h : i < 2 * chanCount s ch) : (rescaledRow f s ch)[i]? = some (f ch i (elem (s.rr.get ch) i)) := by
  rw [rescaledRow, rowFrom_getElem?, if_pos h]

/-- The function of an element that RSC.D applies: RSC's below a shift of 2, else with the draw of its element. -/
def ditherFunction (outsign : Bool) (s : State) (ch : Fin 4) (i : Nat) (v : Int) : Int :=
  if pOut s + 2 ≤ pInt s then
    rescaleDithered outsign (pInt s) (pOut s) (ditherTerm s.freeCount ch.val i (pInt s - pOut s)) v
  else rescale outsign (pInt s) (pOut s) v

/-- Everything RSC.D can do: one rescaling of the rows, and a use of free values when the shift is at least 2. -/
theorem execRscD_next {outsign : Bool} {s t : State} (h : execRscD outsign s = .next t) :
    RowsHeld s s.rr ∧ t = { s with
      wr := .build fun ch => if inUse s ch then rescaledRow (ditherFunction outsign s) s ch else s.wr.get ch
      freeCount := t.freeCount } := by
  unfold execRscD at h
  split at h
  · rename_i hs
    have hf : ditherFunction outsign s = fun ch i v =>
        rescaleDithered outsign (pInt s) (pOut s) (ditherTerm s.freeCount ch.val i (pInt s - pOut s)) v := by
      funext ch i v; simp [ditherFunction, hs]
    split at h
    · rename_i u hu
      cases h
      obtain ⟨hr, rfl⟩ := rescaleRows_next hu
      exact ⟨hr, by rw [hf]; rfl⟩
    · cases h
    · cases h
  · rename_i hs
    have hf : ditherFunction outsign s = fun _ _ v => rescale outsign (pInt s) (pOut s) v := by
      funext ch i v; simp [ditherFunction, hs]
    obtain ⟨hr, rfl⟩ := rescaleRows_next h
    exact ⟨hr, by rw [hf]⟩

theorem execRscD_held (outsign : Bool) {s : State} (h : RowsHeld s s.rr) : ∃ t, execRscD outsign s = .next t := by
  unfold execRscD
  split
  · simp [(rescaleRows_eq _ s).1 h]
  · exact ⟨_, (rescaleRows_eq _ s).1 h⟩

theorem execRscD_unheld (outsign : Bool) {s : State} (h : ¬RowsHeld s s.rr) :
    execRscD outsign s = .fault .unwrittenElement := by
  unfold execRscD
  split
  · simp [(rescaleRows_eq _ s).2 h]
  · exact (rescaleRows_eq _ s).2 h

/-! ### Colour -/

@[simp] theorem copyRow_length (n : Nat) (row : Row) : (copyRow n row).length = n := by simp [copyRow]

theorem copyRow_eq_take {n : Nat} {row : Row} (h : n ≤ row.length) : copyRow n row = row.take n := by
  apply List.ext_getElem?
  intro i
  rw [copyRow, rowFrom_getElem?, List.getElem?_take]
  split
  · rename_i hi
    rw [elem, List.getD_eq_getElem?_getD, List.getElem?_eq_getElem (by omega), Option.getD_some]
  · rfl

theorem execCtPass_next {s t : State} (h : execCtPass s = .next t) :
    2 * chanCount s 0 ≤ s.wr.c0.length ∧ 2 * chanCount s 1 ≤ s.wr.c1.length ∧ 2 * chanCount s 2 ≤ s.wr.c2.length ∧
      t = { s with cr := ⟨copyRow (2 * chanCount s 0) s.wr.c0, copyRow (2 * chanCount s 1) s.wr.c1,
        copyRow (2 * chanCount s 2) s.wr.c2⟩ } := by
  unfold execCtPass at h
  split at h
  · rename_i hw
    simp only [Bool.and_eq_true, written_eq] at hw
    cases h
    exact ⟨hw.1.1, hw.1.2, hw.2, rfl⟩
  · cases h

theorem execCtDiff_next {s t : State} (h : execCtDiff s = .next t) :
    rowWidth s ≤ s.wr.c0.length ∧ rowWidth s ≤ s.wr.c1.length ∧ rowWidth s ≤ s.wr.c2.length ∧
      t = { s with cr :=
        ⟨rowFrom (rowWidth s) fun i => diffComponent (pOut s) (diffOffset s) (elem s.wr.c1 i) (elem s.wr.c0 i),
         copyRow (rowWidth s) s.wr.c0,
         rowFrom (rowWidth s) fun i => diffComponent (pOut s) (diffOffset s) (elem s.wr.c2 i) (elem s.wr.c0 i)⟩ } := by
  unfold execCtDiff at h
  split at h
  · rename_i hw
    simp only [Bool.and_eq_true, written_eq] at hw
    cases h
    exact ⟨hw.1.1, hw.1.2, hw.2, rfl⟩
  · cases h

theorem applyMatrix_next {m : Config.Matrix} {s t : State} (h : applyMatrix m s = .next t) :
    ComponentsHeld s (rowWidth s) ∧ t = { s with cr := ⟨matrixRow m.y s, matrixRow m.u s, matrixRow m.v s⟩ } := by
  unfold applyMatrix at h
  split at h
  · rename_i hw
    simp only [Bool.and_eq_true, written_eq] at hw
    cases h
    exact ⟨⟨hw.1.1, hw.1.2, hw.2⟩, rfl⟩
  · cases h

theorem execCtAlpha_next {s t : State} (h : execCtAlpha s = .next t) :
    rowWidth s ≤ s.wr.c3.length ∧ t = { s with ar := decompandedRow s } := by
  unfold execCtAlpha at h
  split at h
  · rename_i hw
    cases h
    exact ⟨(written_eq _ _).1 hw, rfl⟩
  · cases h

/-! ### Subsampling -/

theorem subsample_next {f : Row → Nat → Int} {s t : State} (h : subsample f s = .next t) :
    rowWidth s ≤ s.cr.k1.length ∧ rowWidth s ≤ s.cr.k2.length ∧
      t = { s with sr := ⟨rowFrom (coefCount s) (f s.cr.k1), rowFrom (coefCount s) (f s.cr.k2)⟩ } := by
  unfold subsample at h
  split at h
  · rename_i hw
    simp only [Bool.and_eq_true, written_eq] at hw
    cases h
    exact ⟨hw.1, hw.2, rfl⟩
  · cases h

/-! ### Packing -/

theorem anyWriteFails_iff (s : State) (n : Nat) : anyWriteFails s n = false ↔ WritesAnswered s n := by
  unfold anyWriteFails WritesAnswered
  rw [← Bool.not_eq_true, List.any_eq_true]
  simp

/-- Everything the end of a PK operation can do (R176, R246). -/
theorem storeRow_next {packed : Except Fault (List Byte)} {s t : State} (h : storeRow packed s = .next t) :
    ∃ bytes, packed = .ok bytes ∧
      ((WritesAnswered s bytes.length ∧ t = writeWhole bytes s) ∨
        (¬WritesAnswered s bytes.length ∧ t = raiseFault .cvBus 0 bufOut (writePartly bytes s))) := by
  unfold storeRow at h
  split at h
  · cases h
  · rename_i bytes
    refine ⟨bytes, rfl, ?_⟩
    rw [← anyWriteFails_iff]
    split at h
    · rename_i hf; cases h; exact .inr ⟨by simp [hf], rfl⟩
    · rename_i hf; cases h; exact .inl ⟨by simpa using hf, rfl⟩

theorem storeRow_answered {bytes : List Byte} {s : State} (h : WritesAnswered s bytes.length) :
    storeRow (.ok bytes) s = .next (writeWhole bytes s) := by
  simp [storeRow, (anyWriteFails_iff s _).2 h]

@[simp] theorem contend_length (s : State) (bytes : List Byte) : (contend s bytes).length = bytes.length := by
  simp [contend]

/-- The bytes a PK operation brings to OUT are the packed ones, but for those the host has written too (R275). -/
theorem contend_getElem? (s : State) (bytes : List Byte) {k : Nat}
    (h : (s.outPtr + BitVec.ofNat 32 k).toNat ∉ s.hostOut) : (contend s bytes)[k]? = bytes[k]? := by
  rw [contend, List.getElem?_mapIdx]
  simp only [List.contains_iff_mem, h, if_false, Option.map_id']

theorem contend_uncontested {s : State} {bytes : List Byte} (h : Uncontested s bytes.length) :
    contend s bytes = bytes := by
  apply List.ext_getElem?
  intro k
  by_cases hk : k < bytes.length
  · exact contend_getElem? s bytes (h k hk)
  · rw [List.getElem?_eq_none (by simpa using hk), List.getElem?_eq_none (by simpa using hk)]

/-- What a row that was written, whole or in part, leaves at an address: what stood there, the packed byte, or a byte
the host has written too. -/
theorem outByte_writeRow (keep : Nat → Bool) (s : State) (bytes : List Byte) (hlen : bytes.length ≤ 2 ^ 32) (a : Word) :
    outByte (writeRow keep bytes s) a = outByte s a ∨ bytes[distance s.outPtr a]? = some (outByte (writeRow keep bytes s) a) ∨
      (distance s.outPtr a < bytes.length ∧ a.toNat ∈ s.hostOut) := by
  have ha : s.outPtr + BitVec.ofNat 32 (a - s.outPtr).toNat = a := by bv_omega
  unfold outByte distance
  rw [writeRow_out, read_writeChosen _ _ _ _ _ _ (by simpa using hlen)]
  by_cases hh : a.toNat ∈ s.hostOut
  · by_cases hk : (a - s.outPtr).toNat < bytes.length
    · exact .inr (.inr ⟨hk, hh⟩)
    · rw [List.getElem?_eq_none (by simpa using hk)]; exact .inl rfl
  · rw [contend_getElem? s bytes (by rw [ha]; exact hh)]
    cases bytes[(a - s.outPtr).toNat]? with
    | none => exact .inl rfl
    | some b =>
      simp only
      split
      · exact .inr (.inl rfl)
      · exact .inl rfl

/-- The byte at a place of a completed row (R73). -/
theorem rowByte_writeWhole (s : State) (bytes : List Byte) (hlen : bytes.length ≤ 2 ^ 32) {k : Nat} {b : Byte}
    (hk : bytes[k]? = some b) (hh : (s.outPtr + BitVec.ofNat 32 k).toNat ∉ s.hostOut) :
    rowByte s (writeWhole bytes s) k = b := by
  have hk32 : k < 2 ^ 32 := by
    have := (List.getElem?_eq_some_iff.1 hk).1
    omega
  have hd : (s.outPtr + BitVec.ofNat 32 k - s.outPtr).toNat = k := by
    have : s.outPtr + BitVec.ofNat 32 k - s.outPtr = BitVec.ofNat 32 k := by bv_omega
    rw [this, BitVec.toNat_ofNat, Nat.mod_eq_of_lt hk32]
  unfold rowByte outByte
  rw [writeWhole_out, read_writeChosen _ _ _ _ _ _ (by simpa using hlen), hd, contend_getElem? s bytes hh, hk]
  rfl

/-- A row that was written, whole or in part, changes no byte outside it. -/
theorem sameOutsideRow_writeRow (keep : Nat → Bool) (s : State) (bytes : List Byte) (hlen : bytes.length ≤ 2 ^ 32) :
    SameOutsideRow s (writeRow keep bytes s) bytes.length := by
  refine ⟨fun a ha => ?_, fun _ => rfl⟩
  have hn : (contend s bytes)[(a - s.outPtr).toNat]? = none := List.getElem?_eq_none (by
    rw [contend_length]; exact ha)
  unfold outByte
  rw [writeRow_out, read_writeChosen _ _ _ _ _ _ (by simpa using hlen), hn]

/-! ### The orchestrator -/

theorem execStart_eq (s : State) :
    execStart s =
      if acceptsStart s.phase then
        match firstViolation s with
        | some v => .next (raiseFault v.code v.ch v.buf s)
        | none => .next (beginStrip s)
      else .next (setWrerr s) := rfl

/-- What a reset does to OUT: nothing, or the row being packed is partly written. -/
theorem abandonRow_cases (s : State) :
    abandonRow s = s ∨
      ∃ i bytes, s.phase = .busy ∧ s.stage = 6 ∧ decode (.slot 6) s.scw = .ok i ∧ packedBytes i s = .ok bytes ∧
        abandonRow s = writePartly bytes s := by
  unfold abandonRow
  split
  · rename_i hb
    split
    · rename_i i hi
      split
      · rename_i bytes hp
        exact .inr ⟨i, bytes, hb.1, hb.2, hi, hp, rfl⟩
      · exact .inl rfl
    · exact .inl rfl
  · exact .inl rfl

@[simp] theorem advancePointers_get (s : State) (ptr pitch : Quad Word) (ch : Fin 4) :
    (advancePointers s ptr pitch).get ch = if inUse s ch then ptr.get ch + pitch.get ch else ptr.get ch := by
  simp [advancePointers]

/-- Everything a step of the orchestrator can do when it ends in a next state. -/
theorem stageStep_next {s t : State} (h : stageStep s = .next t) :
    (∃ i u, decode (.slot s.stage) s.scw = .ok i ∧ exec i s = .next u ∧ t = advanceStage i u) ∨
      (slotFilled s.scw s.stage = false ∧ t = { s with stage := nextSlot s.scw s.stage }) := by
  unfold stageStep fetch at h
  split at h
  · rename_i i hi
    split at h
    · rename_i u hu; cases h; exact .inl ⟨i, u, hi, hu, rfl⟩
    · cases h
    · cases h
  · rename_i e he
    cases h
    exact .inr ⟨by simp [slotFilled, he], rfl⟩

theorem orchestrate_next {s t : State} (h : orchestrate s = .next t) :
    (s.phase = .busy ∧ stageStep s = .next t) ∨ (s.phase ≠ .busy ∧ t = s) := by
  unfold orchestrate at h
  split at h
  · rename_i hb; exact .inl ⟨hb, h⟩
  · rename_i hb; cases h; exact .inr ⟨hb, rfl⟩

end Sys2Proof.Machine
end

