-- ==== Sys2Proof/Laws/PerInstr.lean ====
section
/-! SUPPORT. Laws of the instructions as syntax, one lemma per constructor. -/

namespace Sys2Proof.Laws.OwnBits

open Sys2Proof

/-- An operation's encoding sets no bit outside the bits it owns: the bits its match fixes and those of its operands
(R90, R96). -/
def Statement (i : Instr) : Prop := encodeBits i &&& encodeMask i = encodeBits i

theorem nop : Statement .nop := by unfold Statement; decide

theorem start : Statement .start := by unfold Statement; decide

theorem reset : Statement .reset := by unfold Statement; decide

theorem synStd (div2rnd : Bool) : Statement (.synStd div2rnd) := by unfold Statement; cases div2rnd <;> decide

theorem synLim (div2rnd : Bool) (limbits : BitVec 4) : Statement (.synLim div2rnd limbits) := by
  unfold Statement encodeBits encodeMask bitAt
  revert div2rnd limbits
  decide

theorem synDsc (dshift : Bool) : Statement (.synDsc dshift) := by unfold Statement; cases dshift <;> decide

theorem rsc (outsign : Bool) : Statement (.rsc outsign) := by unfold Statement; cases outsign <;> decide

theorem rscD (outsign : Bool) : Statement (.rscD outsign) := by unfold Statement; cases outsign <;> decide

theorem ctPass : Statement .ctPass := by unfold Statement; decide

theorem ctDiff : Statement .ctDiff := by unfold Statement; decide

theorem ctMtxCg601 : Statement .ctMtxCg601 := by unfold Statement; decide

theorem ctMtxVs601 : Statement .ctMtxVs601 := by unfold Statement; decide

theorem ctMtxCg709 : Statement .ctMtxCg709 := by unfold Statement; decide

theorem ctMtxVs709 : Statement .ctMtxVs709 := by unfold Statement; decide

theorem ctAlpha : Statement .ctAlpha := by unfold Statement; decide

theorem ssPair : Statement .ssPair := by unfold Statement; decide

theorem ssCw : Statement .ssCw := by unfold Statement; decide

theorem pkYuyv (src422 : Bool) : Statement (.pkYuyv src422) := by unfold Statement; cases src422 <;> decide

theorem pkUyvy (src422 : Bool) : Statement (.pkUyvy src422) := by unfold Statement; cases src422 <;> decide

theorem pkV210 (src422 : Bool) : Statement (.pkV210 src422) := by unfold Statement; cases src422 <;> decide

theorem pkV408 (alpha : Bool) : Statement (.pkV408 alpha) := by unfold Statement; cases alpha <;> decide

theorem pkAyuv (alpha : Bool) : Statement (.pkAyuv alpha) := by unfold Statement; cases alpha <;> decide

theorem pkP16 (alpha : Bool) : Statement (.pkP16 alpha) := by unfold Statement; cases alpha <;> decide

theorem pkRg30 : Statement .pkRg30 := by unfold Statement; decide

theorem pkAr10 : Statement .pkAr10 := by unfold Statement; decide

theorem pkAb10 : Statement .pkAb10 := by unfold Statement; decide

theorem pkR210 : Statement .pkR210 := by unfold Statement; decide

theorem pkDpx0 : Statement .pkDpx0 := by unfold Statement; decide

theorem pkB64a (alpha : Bool) : Statement (.pkB64a alpha) := by unfold Statement; cases alpha <;> decide

theorem adv : Statement .adv := by unfold Statement; decide

end Sys2Proof.Laws.OwnBits
end

