-- ==== Sys2Proof/Laws/Step.lean ====
section
/-! SUPPORT. What a passed start-time check says (R214), and what START, the stage operations and the register accesses
can do. -/

namespace Sys2Proof.Machine

/-! ### The checks -/

theorem require_none (ok : Bool) (v : Violation) : require ok v = none ↔ ok = true := by
  cases ok <;> simp [require]

theorem or_none {α : Type} (a b : Option α) : a.or b = none ↔ a = none ∧ b = none := by
  cases a <;> simp

/-- The checks of R214 hold one by one when none is violated. -/
theorem firstViolation_none_iff (s : State) :
    firstViolation s = none ↔
      checkFormat s = none ∧ checkRoi s = none ∧ checkFields s = none ∧ checkShape s = none ∧ checkAlign s = none ∧
        checkDepth s = none ∧ checkPitches s = none ∧ checkOutPitch s = none := by
  simp only [firstViolation, or_none]

/-- What START has checked, as the conditions of R214 themselves. -/
structure Checked (s : State) : Prop where
  roi : roiLegal s = true
  fields : scwFieldsLegal s = true
  prec : precLegal s = true
  registers : colorRegistersLegal s = true
  shape : shapeLegal s = true
  named : ∃ f, format s = some f ∧ widthAligned f (coefCount s) = true ∧ depthLegal f (pOut s) = true ∧
    rowBytes f s ≤ s.outPitch.toNat

theorem checked_of_none {s : State} (h : firstViolation s = none) : Checked s := by
  rw [firstViolation_none_iff] at h
  obtain ⟨h2, h3, h4, h5, h6, h7, -, h9⟩ := h
  simp only [checkFormat, checkRoi, checkFields, checkShape, require_none, Bool.and_eq_true] at h2 h3 h4 h5
  obtain ⟨f, hf⟩ := Option.isSome_iff_exists.1 h2
  simp only [checkAlign, checkDepth, checkOutPitch, hf, require_none, decide_eq_true_eq] at h6 h7 h9
  exact ⟨h3, h4.1.1, h4.1.2, h4.2, h5, f, hf, h6, h7, h9⟩

/-- At least three coefficients, in every channel in use (R111). -/
theorem Checked.wide {s : State} (h : Checked s) : ChannelsWide s := by
  have hr := h.roi
  intro ch _
  simp only [roiLegal, Bool.and_eq_true, Bool.or_eq_true, Bool.not_eq_true', decide_eq_true_eq, beq_iff_eq] at hr
  unfold chanCount
  split
  · rename_i hc
    simp only [Bool.and_eq_true] at hc
    rcases hr.2 with h' | h'
    · simp [h'] at hc
    · omega
  · omega

/-- A half-rate source has an even coefficient count (R40). -/
theorem Checked.even {s : State} (h : Checked s) (h422 : scwSrc422 s.scw = true) : coefCount s % 2 = 0 := by
  have hr := h.roi
  simp only [roiLegal, Bool.and_eq_true, Bool.or_eq_true, Bool.not_eq_true', decide_eq_true_eq, beq_iff_eq] at hr
  rcases hr.2 with h' | h'
  · simp [h'] at h422
  · exact h'.1

/-- The output depth is one of the three legal ones (R39). -/
theorem Checked.depth {s : State} (h : Checked s) : pOut s = 8 ∨ pOut s = 10 ∨ pOut s = 16 := by
  have hp := h.prec
  simp only [precLegal, Bool.and_eq_true, Bool.or_eq_true, decide_eq_true_eq, beq_iff_eq] at hp
  omega

/-- SYNMODE is not the reserved value (R91). -/
theorem Checked.synmode {s : State} (h : Checked s) : scwSynmode s.scw ≠ 3 := by
  have hf := h.fields
  simp only [scwFieldsLegal, Bool.and_eq_true, decide_eq_true_eq] at hf
  exact hf.1.1.2

/-- Signed output goes with neither a differential source nor an alpha channel (R94). -/
theorem Checked.signed {s : State} (h : Checked s) (ho : scwOutsign s.scw = true) :
    format s = some .p16 ∧ scwSrc s.scw = false ∧ scwAlpha s.scw = false := by
  have hf := h.fields
  simp only [scwFieldsLegal, Bool.and_eq_true, Bool.or_eq_true, Bool.not_eq_true', decide_eq_true_eq] at hf
  rcases hf.2 with h' | h'
  · simp [h'] at ho
  · exact ⟨h'.1.1, h'.1.2, h'.2⟩

/-- The unsupported shapes (R102). -/
theorem Checked.shapes {s : State} (h : Checked s) :
    (scwSrc s.scw = true → scwSrc422 s.scw = false) ∧ (scwIsRgb s.scw = true → scwSrc s.scw = true) ∧
      (scwSrc422 s.scw = true → format s ≠ some .v408 ∧ format s ≠ some .ayuv) := by
  have hs := h.shape
  simp only [shapeLegal, Bool.and_eq_true, Bool.not_eq_true', Bool.and_eq_false_iff, Bool.or_eq_false_iff,
    Bool.not_eq_false', decide_eq_false_iff_not] at hs
  refine ⟨fun h1 => ?_, fun h1 => ?_, fun h1 => ?_⟩
  · exact hs.1.1.resolve_left (by simp [h1])
  · exact hs.1.2.resolve_left (by simp [h1])
  · exact hs.2.resolve_left (by simp [h1])

/-! ### START -/

theorem execStart_next {s t : State} (h : execStart s = .next t) :
    (acceptsStart s.phase = true ∧ firstViolation s = none ∧ t = beginStrip s) ∨
      (∃ v, acceptsStart s.phase = true ∧ firstViolation s = some v ∧ t = raiseFault v.code v.ch v.buf s) ∨
        (acceptsStart s.phase = false ∧ t = setWrerr s) := by
  rw [execStart_eq] at h
  split at h
  · rename_i ha
    split at h
    · rename_i v hv; cases h; exact .inr (.inl ⟨v, ha, hv, rfl⟩)
    · rename_i hv; cases h; exact .inl ⟨ha, hv, rfl⟩
  · rename_i ha; cases h; exact .inr (.inr ⟨by simpa using ha, rfl⟩)

/-! ### Stage operations -/

/-- A stage operation other than ADV ends in a state that differs from its start in row buffers, OUT and the count of
free values alone, or in CV_BUS raised from such a state. -/
def StageShape (s t : State) : Prop :=
  t = { s with rr := t.rr, wr := t.wr, cr := t.cr, sr := t.sr, ar := t.ar, out := t.out, freeCount := t.freeCount } ∨
    ∃ u ch buf, u = { s with out := u.out, freeCount := u.freeCount } ∧ t = raiseFault .cvBus ch buf u

theorem synthesize_shape {finish : Int → Int} {s t : State} (h : synthesize finish s = .next t) : StageShape s t := by
  obtain ⟨-, ⟨-, h⟩ | ⟨-, h⟩⟩ := synthesize_next h
  · left; rw [h]; rfl
  · right; exact ⟨_, _, _, rfl, h⟩

theorem storeRow_shape {packed : Except Fault (List Byte)} {s t : State} (h : storeRow packed s = .next t) :
    StageShape s t := by
  obtain ⟨bytes, -, ⟨-, h⟩ | ⟨-, h⟩⟩ := storeRow_next h
  · left; rw [h]; rfl
  · right; exact ⟨_, _, _, rfl, h⟩

theorem stage_shape {i : Instr} {k : BitVec 3} {s t : State} (hk : siteOf i = .slot k) (hi : i ≠ .adv)
    (h : exec i s = .next t) : StageShape s t := by
  cases i with
  | nop => cases hk
  | start => cases hk
  | reset => cases hk
  | synStd _ => exact synthesize_shape h
  | synLim _ _ => exact synthesize_shape h
  | synDsc _ => exact synthesize_shape h
  | rsc _ => left; rw [(rescaleRows_next h).2]
  | rscD _ => left; rw [(execRscD_next h).2]
  | ctPass => left; rw [(execCtPass_next h).2.2.2]
  | ctDiff => left; rw [(execCtDiff_next h).2.2.2]
  | ctMtxCg601 => left; rw [(applyMatrix_next h).2]
  | ctMtxVs601 => left; rw [(applyMatrix_next h).2]
  | ctMtxCg709 => left; rw [(applyMatrix_next h).2]
  | ctMtxVs709 => left; rw [(applyMatrix_next h).2]
  | ctAlpha => left; rw [(execCtAlpha_next h).2]
  | ssPair => left; rw [(subsample_next h).2.2]
  | ssCw => left; rw [(subsample_next h).2.2]
  | adv => exact absurd rfl hi
  | pkYuyv _ => exact storeRow_shape h
  | pkUyvy _ => exact storeRow_shape h
  | pkV210 _ => exact storeRow_shape h
  | pkV408 _ => exact storeRow_shape h
  | pkAyuv _ => exact storeRow_shape h
  | pkP16 _ => exact storeRow_shape h
  | pkRg30 => exact storeRow_shape h
  | pkAr10 => exact storeRow_shape h
  | pkAb10 => exact storeRow_shape h
  | pkR210 => exact storeRow_shape h
  | pkDpx0 => exact storeRow_shape h
  | pkB64a _ => exact storeRow_shape h

/-- The PK operations are exactly the ends of `storeRow` (R176). -/
theorem exec_pack {i : Instr} (hi : siteOf i = .slot 6) (s : State) : exec i s = storeRow (packedBytes i s) s := by
  cases i <;> first | rfl | (simp [siteOf] at hi)

/-! ### Register writes -/

/-- A write of a descriptor register leaves every other part of the state alone. -/
theorem storeDescriptor_shape (r : Reg) (v : Word) (s : State) :
    storeDescriptor r v s = { s with
      scw := (storeDescriptor r v s).scw, prec := (storeDescriptor r v s).prec, roi := (storeDescriptor r v s).roi,
      diffoff := (storeDescriptor r v s).diffoff, alphaDc := (storeDescriptor r v s).alphaDc,
      alphaGain := (storeDescriptor r v s).alphaGain, alphaScale := (storeDescriptor r v s).alphaScale,
      outBase := (storeDescriptor r v s).outBase, outPitch := (storeDescriptor r v s).outPitch,
      lpBase := (storeDescriptor r v s).lpBase, hpBase := (storeDescriptor r v s).hpBase,
      lpPitch := (storeDescriptor r v s).lpPitch, hpPitch := (storeDescriptor r v s).hpPitch } := by
  cases r <;> rfl

/-- Everything a register write can do when it ends in a next state. -/
theorem portWrite_next {width : Width} {offset : BitVec 8} {w : Word} {s t : State}
    (h : portWrite width offset w s = .next t) :
    width = .word ∧
      ((t = s) ∨ (regAt offset = some .irqen ∧ t = { s with irqen := w }) ∨
        (regAt offset = some .cmd ∧ writeCommand w s = .next t) ∨
        ∃ r, regAt offset = some r ∧ isDescriptor r = true ∧
          ((s.phase = .busy ∧ t = setWrerr s) ∨ (s.phase ≠ .busy ∧ t = storeDescriptor r w s))) := by
  unfold portWrite at h
  split at h
  · rename_i ha
    refine ⟨by cases width <;> simp_all [accessOk], ?_⟩
    split at h
    · rename_i r hr
      cases r
      case cmd => exact .inr (.inr (.inl ⟨hr, h⟩))
      case irqen => cases h; exact .inr (.inl ⟨hr, rfl⟩)
      all_goals
        simp only [writeReg] at h
        first
          | (cases h; exact .inl rfl)
          | (split at h <;> cases h <;>
              first
                | exact .inr (.inr (.inr ⟨_, hr, rfl, .inl ⟨‹_›, rfl⟩⟩))
                | exact .inr (.inr (.inr ⟨_, hr, rfl, .inr ⟨‹_›, rfl⟩⟩)))
    · cases h; exact .inl rfl
  · cases h

/-- Everything a command word can do when it ends in a next state (R212). -/
theorem writeCommand_next {w : Word} {s t : State} (h : writeCommand w s = .next t) :
    (w = 0x00000000 ∧ t = s) ∨ (w = 0x00000001 ∧ execStart s = .next t) ∨
      (w = 0x00000002 ∧ t = resetRegisters (abandonRow s)) ∨ (3 ≤ w.toNat ∧ t = invalidCommand s) := by
  unfold writeCommand at h
  rw [decode_cmd] at h
  by_cases h0 : w = 0x00000000
  · subst h0; cases h; exact .inl ⟨rfl, rfl⟩
  by_cases h1 : w = 0x00000001
  · subst h1; exact .inr (.inl ⟨rfl, h⟩)
  by_cases h2 : w = 0x00000002
  · subst h2; cases h; exact .inr (.inr (.inl ⟨rfl, rfl⟩))
  · rw [if_neg h0, if_neg h1, if_neg h2] at h
    cases h
    exact .inr (.inr (.inr ⟨by bv_omega, rfl⟩))

/-! ### The memories seen from outside -/

/-- Everything a host write of OUT can do: it goes on, one byte changes, and which value it gets is open only where the
block has packed it (R275). -/
theorem hostOutWrite_next {a : Word} {v : Byte} {s t : State} (h : hostOutWrite a v s = .next t) :
    ∃ b, t = { s with out := s.out.write a.toNat b, hostOut := t.hostOut, freeCount := t.freeCount } ∧
      (s.phase ≠ .busy ∨ inPackedRows s a = false → b = v) ∧
      t.hostOut = if s.phase = .busy then a.toNat :: s.hostOut else s.hostOut := by
  unfold hostOutWrite at h
  split at h
  · rename_i hb
    cases h
    refine ⟨_, rfl, ?_, by simp [hb]⟩
    rintro (hn | hp)
    · exact absurd hb hn
    · simp [hp]
  · rename_i hb
    cases h
    exact ⟨v, rfl, fun _ => rfl, by simp [hb]⟩

/-! ### One step -/

/-- Everything a step can do when it ends in a next state, by the action at the head of the queue. -/
theorem step_next {s t : State} (h : step s = .next t) :
    (s.inputs = [] ∧ orchestrate s = .next t) ∨
      ∃ e rest, s.inputs = e :: rest ∧
        match e with
        | .run => orchestrate { s with inputs := rest } = .next t
        | .wait => (s.phase = .done ∨ s.phase = .fault) ∧ t = { s with inputs := rest, rdata := statusWord s } ∨
            orchestrate s = .next t
        | .read _ offset => t = { s with inputs := rest, rdata := readOffset { s with inputs := rest } offset }
        | .write width offset w => portWrite width offset w { s with inputs := rest } = .next t
        | .hardReset => t = resetRegisters (abandonRow { s with inputs := rest })
        | .coefWrite a v => t = { s with
            inputs := rest
            coef := s.coef.write a.toNat v
            overwritten := if s.phase = .busy then (a.toNat, s.coef.read a.toNat) :: s.overwritten else s.overwritten }
        | .outWrite a v => ∃ b,
            t = { s with inputs := rest, out := s.out.write a.toNat b, hostOut := t.hostOut, freeCount := t.freeCount } ∧
              (s.phase ≠ .busy ∨ inPackedRows s a = false → b = v) ∧
              t.hostOut = if s.phase = .busy then a.toNat :: s.hostOut else s.hostOut
        | .busAnswers coefErrors outErrors => t = { s with inputs := rest, bus := ⟨coefErrors, outErrors⟩ } := by
  unfold step takeStep at h
  split at h
  · rename_i hi; exact .inl ⟨hi, h⟩
  · rename_i rest hi; exact .inr ⟨_, _, hi, h⟩
  · rename_i rest hi
    refine .inr ⟨_, _, hi, ?_⟩
    unfold waitStep at h
    split at h
    · rename_i hp; cases h; exact .inl ⟨hp, rfl⟩
    · exact .inr h
  · rename_i width offset rest hi
    refine .inr ⟨_, _, hi, ?_⟩
    unfold portRead at h
    split at h <;> cases h
    rfl
  · rename_i width offset w rest hi; exact .inr ⟨_, _, hi, h⟩
  · rename_i rest hi; cases h; exact .inr ⟨_, _, hi, rfl⟩
  · rename_i a v rest hi; cases h; exact .inr ⟨_, _, hi, rfl⟩
  · rename_i a v rest hi; exact .inr ⟨_, _, hi, hostOutWrite_next h⟩
  · rename_i c o rest hi; cases h; exact .inr ⟨_, _, hi, rfl⟩

end Sys2Proof.Machine
end

