-- ==== Sys2Proof/Tests/Slice0.lean ====
section
/-! SUPPORT. Tests of the model on the spec's own examples (spec/95_test_vectors.md, named in each test), and a witness
for the hypotheses of every statement. -/

namespace Sys2Proof.Tests

open Sys2Proof Sys2Proof.Machine

/-! ### Small states -/

/-- Three coefficients per channel, one row, the given SCW and PREC: the smallest strip. -/
def small (scw prec : Word) : State := { State.reset with roi := 0x00010003, scw := scw, prec := prec }

/-- A small strip whose lowpass and highpass rows stand at 0 and 0x10, the same for every channel. -/
def filtering (scw : Word) (lp hp : List Sample) : State :=
  { small scw 0x0808 with
    phase := .busy
    hpPtr := ⟨0x10, 0x10, 0x10, 0x10⟩
    coef := (lp.zipIdx.map fun e => (e.2, e.1)) ++ (hp.zipIdx.map fun e => (0x10 + e.2, e.1)) }

/-- A small strip whose three WR rows are given. -/
def rescaled (scw prec : Word) (w0 w1 w2 : Row) : State := { small scw prec with wr := ⟨w0, w1, w2, []⟩ }

/-- A small strip whose three CR rows are given, ready to pack at byte 0x100. -/
def coloured (scw prec : Word) (k0 k1 k2 : Row) : State :=
  { small scw prec with phase := .busy, stage := 6, cr := ⟨k0, k1, k2⟩, outPtr := 0x100 }

/-- A part of the state an outcome goes on with. -/
def part {α : Type} (f : State → α) : Outcome → Option α
  | .next t => some (f t)
  | .fault _ => none
  | .refused _ => none

/-- The first `n` bytes of OUT from 0x100 on. -/
def bytesAt (n : Nat) (s : State) : List Byte := (List.range n).map fun k => outByte s (0x100 + BitVec.ofNat 32 k)

/-- The registers of P1 (95_test_vectors section 3), in IDLE. -/
def p1 : State :=
  { State.reset with
    scw := 0x00100400, prec := 0x00000808, roi := 0x00020006, outBase := 0x8000, outPitch := 32
    lpBase := ⟨0x1000, 0x2000, 0x3000, 0⟩, hpBase := ⟨0x1100, 0x2100, 0x3100, 0⟩
    lpPitch := ⟨8, 4, 4, 0⟩, hpPitch := ⟨8, 4, 4, 0⟩ }

/-- P1 right after START. -/
def p1Busy : State := beginStrip p1

/-- P1 with one action pending from outside. -/
def p1With (p : Phase) (e : Input) : State := { p1 with phase := p, inputs := [e] }

/-! ### Well-formedness: each check refuses an ill-formed term (R91, R8, R154) -/

theorem test_wf_limbits_zero : (Instr.synLim true 0).wf = false ∧ (Instr.synLim true 1).wf = true := by decide

theorem test_wf_maxN :
    paramsOk { Config.defaultParams with maxN := 2 } = false ∧ paramsOk { Config.defaultParams with maxN := 3 } = true ∧
      paramsOk { Config.defaultParams with maxN := 65535 } = true ∧
      paramsOk { Config.defaultParams with maxN := 65536 } = false := by decide

theorem test_wf_coefficient :
    matrixRowOk ⟨-1025, 0, 0, 0⟩ = false ∧ matrixRowOk ⟨0, 1024, 0, 0⟩ = false ∧ matrixRowOk ⟨0, 0, 1024, 0⟩ = false ∧
      matrixRowOk ⟨-1024, 1023, 0, 255⟩ = true := by decide

theorem test_wf_offset :
    matrixRowOk ⟨0, 0, 0, 256⟩ = false ∧ matrixOk ⟨⟨0, 0, 0, 0⟩, ⟨0, 0, 0, 256⟩, ⟨0, 0, 0, 0⟩⟩ = false := by decide

theorem test_wf_defaults : paramsOk Config.defaultParams = true := by decide

theorem test_wf_every_matrix :
    paramsOk { Config.defaultParams with matrixRom :=
      { Config.defaultMatrixRom with vs709 := ⟨⟨0, 0, 0, 0⟩, ⟨0, 0, 0, 0⟩, ⟨0, 0, 0, 256⟩⟩ } } = false := by decide

/-! ### Words written out from R87, R90, R96 and R97, bit by bit -/

theorem test_decode_commands :
    decode .cmd 0b0 = .ok .nop ∧ decode .cmd 0b1 = .ok .start ∧ decode .cmd 0b10 = .ok .reset ∧
      decode .cmd 0b11 = .error .invalidCommand ∧ decode .cmd 0x101 = .error .invalidCommand := by decide

/-- SYNMODE 1:0, DSHIFT 2, DIV2RND 3, LIMBITS 7:4 (R90). -/
theorem test_decode_syn :
    decode (.slot 0) 0b1000 = .ok (.synStd true) ∧ decode (.slot 0) 0b10101001 = .ok (.synLim true 10) ∧
      decode (.slot 0) 0b11110001 = .ok (.synLim false 15) ∧ decode (.slot 0) 0b0110 = .ok (.synDsc true) ∧
      decode (.slot 0) 0b1010 = .ok (.synDsc false) ∧ decode (.slot 0) 0b11 = .error .emptySlot := by decide

/-- DITHER 8, OUTSIGN 15. -/
theorem test_decode_rsc :
    decode (.slot 1) 0b1000000000000000 = .ok (.rsc true) ∧ decode (.slot 1) 0b100000000 = .ok (.rscD false) ∧
      decode (.slot 1) 0b1000000100000000 = .ok (.rscD true) := by decide

/-- SRC 9, ALPHA 11, MATRIX 13:12, FORMAT bit 7 at 23. -/
theorem test_decode_ct :
    decode (.slot 2) 0 = .ok .ctPass ∧ decode (.slot 2) 0b1000000000 = .ok .ctDiff ∧
      decode (.slot 3) 0b00001000000000 = .ok .ctMtxCg601 ∧ decode (.slot 3) 0b01001000000000 = .ok .ctMtxVs601 ∧
      decode (.slot 3) 0b10001000000000 = .ok .ctMtxCg709 ∧ decode (.slot 3) 0b11001000000000 = .ok .ctMtxVs709 ∧
      decode (.slot 3) 0b100000000000001000000000 = .error .emptySlot ∧
      decode (.slot 4) 0b100000000000 = .ok .ctAlpha := by decide

/-- SRC422 10, SUBSAMP 14, FORMAT bits 7:4 at 23:20. -/
theorem test_decode_ss :
    decode (.slot 5) 0b000100000000000000000000 = .ok .ssPair ∧ decode (.slot 5) 0b000100000100000000000000 = .ok .ssCw ∧
      decode (.slot 5) 0b000100000000010000000000 = .error .emptySlot := by decide

/-- FORMAT at 23:16 with R97's codes, SRC422 10, ALPHA 11. -/
theorem test_decode_pk_yuv :
    decode (.slot 6) 0b000100000000010000000000 = .ok (.pkYuyv true) ∧
      decode (.slot 6) 0b000100010000000000000000 = .ok (.pkUyvy false) ∧
      decode (.slot 6) 0b000100100000010000000000 = .ok (.pkV210 true) ∧
      decode (.slot 6) 0b001000000000100000000000 = .ok (.pkV408 true) ∧
      decode (.slot 6) 0b001000010000000000000000 = .ok (.pkAyuv false) ∧
      decode (.slot 6) 0b010100000000100000000000 = .ok (.pkP16 true) ∧
      decode (.slot 6) 0b000000000000000000000000 = .error .emptySlot := by decide

theorem test_decode_pk_rgb :
    decode (.slot 6) 0b100000000000000000000000 = .ok .pkRg30 ∧ decode (.slot 6) 0b100000010000000000000000 = .ok .pkAr10 ∧
      decode (.slot 6) 0b100000100000000000000000 = .ok .pkAb10 ∧
      decode (.slot 6) 0b100000110000000000000000 = .ok .pkR210 ∧
      decode (.slot 6) 0b100001000000000000000000 = .ok .pkDpx0 ∧
      decode (.slot 6) 0b100100000000100000000000 = .ok (.pkB64a true) ∧
      decode (.slot 7) 0xFFFFFFFF = .ok .adv := by decide

/-- The four strip control words of R228 from their operations. -/
theorem test_assemble :
    assemble [.synStd false, .rsc false, .ctPass, .pkYuyv true, .adv] = 0x00100400 ∧
      assemble [.synLim true 10, .rsc false, .ctPass, .ssCw, .pkUyvy false, .adv] = 0x001140A9 ∧
      assemble [.synStd false, .rsc false, .ctDiff, .ctMtxCg709, .ssPair, .pkV210 false, .adv] = 0x00122200 := by decide

/-- Words of the opcode table without their place (assumption 2), and that a step runs them (assumption 1). -/
theorem test_table_words :
    decodeTableWord 32 1 = some .start ∧ decodeTableWord 8 2 = some (.synDsc false) ∧
      decodeTableWord 24 0x00900000 = some (.pkB64a false) ∧
      (State.reset.withFetchWord 16 0x00000200).stage = 2 := by decide

/-! ### Commands, registers and sequencing (95 section 2.6, 2.7) -/

theorem test_nop_leaves_fault_alone : part (·.phase) (exec .nop (p1With .fault .run)) = some .fault := by decide

/-- "STATE = BUSY, ROW = 0, STAGE = 0, LP_PTR = [0x1000, 0x2000, 0x3000, 0] …, OUT_PTR = 0x8000". -/
theorem test_start_begins :
    part (fun t => (t.phase, t.row, t.lpPtr, t.hpPtr, t.outPtr)) (exec .start p1) =
      some (.busy, 0, ⟨0x1000, 0x2000, 0x3000, 0⟩, ⟨0x1100, 0x2100, 0x3100, 0⟩, 0x8000) := by decide

/-- "LP_PITCH[0] = 5 and HP_PITCH[1] = 2: 0x00000416"; "HP_PITCH[1] = 2: 0x00000916"; reset registers: 0x00000011. -/
theorem test_start_faults :
    part faultWord (exec .start { p1 with lpPitch := ⟨5, 4, 4, 0⟩, hpPitch := ⟨8, 2, 4, 0⟩ }) = some 0x00000416 ∧
      part faultWord (exec .start { p1 with hpPitch := ⟨8, 2, 4, 0⟩ }) = some 0x00000916 ∧
      part faultWord (exec .start State.reset) = some 0x00000011 ∧
      part faultWord (exec .start { p1 with outPitch := 23 }) = some 0x00000C16 := by decide

theorem test_reset_clears :
    part (fun t => (t.phase, t.scw, faultWord t, t.wrerr, t.irqen)) (exec .reset { p1 with
      phase := .fault, wrerr := true, irqen := 3, faultRec := ⟨0x10, 1, 2, 3⟩ }) = some (.idle, 0, 0, false, 0) := by decide

/-- "LP_PTR[0] = 0xFFFFFFFC with LP_PITCH[0] = 8 gives 0x00000004". -/
theorem test_adv_wraps :
    part (fun t => (t.lpPtr.c0, t.row, t.phase)) (exec .adv { p1Busy with lpPtr := ⟨0xFFFFFFFC, 0, 0, 0⟩ }) =
      some (4, 1, .busy) := by decide

theorem test_adv_ends :
    part (fun t => (t.lpPtr.c3, t.row, t.phase)) (exec .adv { p1Busy with row := 1, lpPitch := ⟨8, 4, 4, 9⟩ }) =
      some (0, 2, .done) := by decide

/-- The walk of P1: SYN.STD, RSC, CT.PASS, then slot 6. -/
theorem test_walk_skips_empty_slots : nextSlot 0x00100400 2 = 6 ∧ nextSlot 0x00122200 2 = 3 := by decide

/-- "DONE, IRQEN = 1, RD STATUS: 0x00000022"; "FAULT … STATUS = 0x00000013". -/
theorem test_status :
    statusWord { p1 with phase := .done, irqen := 1 } = 0x22 ∧ statusWord { p1 with phase := .fault, wrerr := true } = 0x13 ∧
      statusWord { p1 with phase := .fault, stage := 6 } = 0x603 := by decide

/-- "BUSY at (1, 2), WR ROI, 5: ROI unchanged, WRERR = 1". -/
theorem test_frozen_descriptor :
    part (fun t => (t.roi, t.wrerr)) (step { p1Busy with inputs := [.write .word 0x1C 5] }) =
      some (0x00020006, true) := by decide

/-- "DONE, CMD 0x00000003: FAULT = 0x00000010, STATE = FAULT". -/
theorem test_invalid_command :
    part (fun t => (t.phase, faultWord t)) (step (p1With .done (.write .word 0x04 3))) = some (.fault, 0x10) := by decide

/-- "RD ID: 0x49485350". -/
theorem test_read_id : part (·.rdata) (step (p1With .idle (.read .word 0))) = some 0x49485350 := by decide

/-! ### Synthesis (95 sections 1.2 and 2.1) -/

/-- S3: lp = 8 4 0, hp = 0. -/
theorem test_synStd_s3 :
    part (·.rr.c0) (exec (.synStd false) (filtering 0x00100000 [8, 4] [])) = some [4, 3, 2, 1, 0, -1] ∧
      part (·.rr.c2) (exec (.synStd true) (filtering 0x00100008 [8, 4] [])) = some [5, 4, 3, 2, 1, 0] := by decide

/-- `satneg`. -/
theorem test_synStd_saturates :
    part (·.rr.c1) (exec (.synStd false) (filtering 0x00100000 [0x8000, 0x8000, 0x8000] [0x7FFF, 0x8000])) =
      some [-1, -16384, -16384, 0, -16384, -16384] := by decide

/-- `lim8` and `limneg`. -/
theorem test_synLim :
    part (·.rr.c0) (exec (.synLim false 8) (filtering 0x00100081 [0x7FFF, 0x7FFF, 0x7FFF] [0x7FFF, 0x7FFF, 0x7FFF])) =
      some [255, 0, 255, 0, 255, 0] ∧
    part (·.rr.c0) (exec (.synLim false 10) (filtering 0x001000A1 [-8, -8, -8] [])) = some [0, 0, 0, 0, 0, 0] := by decide

/-- `dsc0` and `dsc1`. -/
theorem test_synDsc :
    part (·.rr.c0) (exec (.synDsc false) (filtering 0x00100002 [20000, 20000, 20000] [0, 5000, -5000])) =
      some [20000, 20000, 25000, 15000, 15000, 25000] ∧
    part (·.rr.c0) (exec (.synDsc true) (filtering 0x00100006 [20000, 20000, 20000] [0, 5000, -5000])) =
      some [32767, 32767, 32767, 30000, 30000, 32767] := by decide

/-! ### Rescaling (95 section 2.2) -/

/-- 12 to 8 bits unsigned, and 12 to 8 bits signed. -/
theorem test_rsc_right :
    part (·.wr.c0) (exec (.rsc false) { small 0x00100000 0x080C with
      rr := ⟨[4095, 4096, -5, 0, 15, 16], [0, 0, 0, 0, 0, 0], [0, 0, 0, 0, 0, 0], []⟩ }) = some [255, 255, 0, 0, 0, 1] ∧
    part (·.wr.c0) (exec (.rsc true) { small 0x00508000 0x080C with
      rr := ⟨[-2048, 2047, -2064, -1, 4095, 0], [0, 0, 0, 0, 0, 0], [0, 0, 0, 0, 0, 0], []⟩ }) =
      some [-128, 127, -128, -1, 127, 0] := by decide

/-- 8 to 10 bits. -/
theorem test_rsc_left :
    part (·.wr.c1) (exec (.rsc false) { small 0x00500000 0x0A08 with
      rr := ⟨[0, 0, 0, 0, 0, 0], [255, 300, -1, 100, 0, 0], [0, 0, 0, 0, 0, 0], []⟩ }) =
      some [1020, 1023, 0, 400, 0, 0] := by decide

/-- 12 to 8 bits: 2040 gives 127 and 4095 gives 255 for every draw; and 9 to 8 bits is RSC. -/
theorem test_rscD_every_draw (r : Nat) (h : r ≤ 7) :
    rescaleDithered false 12 8 r 2040 = 127 ∧ rescaleDithered false 12 8 r 4095 = 255 ∧
      rescaleDithered false 9 8 r 511 = 255 := by
  interval_cases r <;> decide

/-- 10 to 8 bits: 3 may give 0 or 1. -/
theorem test_rscD_draws_differ : rescaleDithered false 10 8 0 3 = 0 ∧ rescaleDithered false 10 8 1 3 = 1 := by decide

/-! ### Colour (95 section 2.3) -/

theorem test_ctPass :
    part (·.cr) (exec .ctPass (rescaled 0x00100000 0x0808 [1, 2, 3, 4, 5, 6] [3, 4, 5, 6, 7, 8] [5, 6, 7, 8, 9, 10])) =
      some ⟨[1, 2, 3, 4, 5, 6], [3, 4, 5, 6, 7, 8], [5, 6, 7, 8, 9, 10]⟩ := by decide

/-- W = 10, DIFFOFF = 1024. -/
theorem test_ctDiff :
    part (·.cr) (exec .ctDiff { rescaled 0x00800200 0x0A0C [500, 1023, 0, 600, 0, 0] [512, 1023, 0, 400, 0, 0]
        [512, 0, 1023, 700, 0, 0] with diffoff := 1024 }) =
      some ⟨[500, 1023, 0, 376, 0, 0], [500, 1023, 0, 600, 0, 0], [500, 0, 1022, 976, 0, 0]⟩ := by decide

/-- White, black, red, green, blue, grey at W = 8 through each default matrix. -/
def colours : State :=
  coloured 0x00100200 0x0808 [255, 0, 255, 0, 0, 128] [255, 0, 0, 255, 0, 128] [255, 0, 0, 0, 255, 128]

theorem test_ctMtxCg601 : part (·.cr) (exec .ctMtxCg601 colours) =
    some ⟨[235, 16, 82, 144, 41, 126], [128, 128, 90, 54, 240, 128], [128, 128, 240, 34, 110, 128]⟩ := by decide

theorem test_ctMtxVs601 : part (·.cr) (exec .ctMtxVs601 colours) =
    some ⟨[255, 0, 77, 149, 29, 128], [128, 128, 84, 41, 255, 128], [128, 128, 255, 18, 107, 128]⟩ := by decide

theorem test_ctMtxCg709 : part (·.cr) (exec .ctMtxCg709 colours) =
    some ⟨[235, 16, 63, 172, 32, 126], [128, 128, 102, 42, 240, 128], [128, 128, 240, 26, 118, 128]⟩ := by decide

theorem test_ctMtxVs709 : part (·.cr) (exec .ctMtxVs709 colours) =
    some ⟨[255, 0, 54, 182, 19, 128], [128, 128, 98, 27, 255, 128], [128, 128, 255, 9, 116, 128]⟩ := by decide

/-- W = 16, (DC, GAIN, SCALE) = (4096, 9400, 13). -/
theorem test_ctAlpha :
    part (·.ar) (exec .ctAlpha { small 0x00900A00 0x100C with
      alphaDc := 4096, alphaGain := 9400, alphaScale := 13, wr := ⟨[], [], [], [54272, 65535, 65535, 54272, 25600, 0]⟩ }) =
      some [57575, 65535, 65535, 57575, 24675, 0] := by decide

/-! ### Subsampling and packing (95 sections 2.4 and 2.5) -/

theorem test_ssPair :
    part (·.sr) (exec .ssPair (coloured 0x00100000 0x0808 [] [10, 20, 30, 40, 50, 60] [1, 2, 4, 7, 255, 0])) =
      some ⟨[15, 35, 55], [1, 5, 127]⟩ := by decide

theorem test_ssCw :
    part (·.sr) (exec .ssCw (coloured 0x00104000 0x0808 [] [10, 20, 30, 40, 50, 60] [255, 0, 0, 255, 255, 255])) =
      some ⟨[12, 30, 50], [191, 63, 255]⟩ := by decide

/-- Yv = 10 20 30 40 50 60, Cu = A0 A1 A2, Cv = B0 B1 B2 (hexadecimal). -/
def yuv422 (scw : Word) : State :=
  { coloured scw 0x0808 [0x10, 0x20, 0x30, 0x40, 0x50, 0x60] [] [] with
    sr := ⟨[0xA0, 0xA1, 0xA2], [0xB0, 0xB1, 0xB2]⟩ }

theorem test_pkYuyv : part (bytesAt 13) (exec (.pkYuyv false) (yuv422 0x00100000)) =
    some [0x10, 0xA0, 0x20, 0xB0, 0x30, 0xA1, 0x40, 0xB1, 0x50, 0xA2, 0x60, 0xB2, 0] := by decide

theorem test_pkUyvy : part (bytesAt 13) (exec (.pkUyvy false) (yuv422 0x00110000)) =
    some [0xA0, 0x10, 0xB0, 0x20, 0xA1, 0x30, 0xB1, 0x40, 0xA2, 0x50, 0xB2, 0x60, 0] := by decide

theorem test_pkV210 :
    part (bytesAt 16) (exec (.pkV210 true) (coloured 0x00120400 0x0A0A [1, 2, 3, 4, 5, 0x3FF] [0x100, 0x101, 0x102]
      [0x200, 0x201, 0x202])) = some [0x00, 0x05, 0x00, 0x20, 0x02, 0x04, 0x34, 0x00, 0x01, 0x12, 0x20, 0x10, 0x05, 0x08,
      0xF8, 0x3F] := by decide

/-- One pixel (Y, U, V, A) = (10, A0, B0, C0), the others 0. -/
def yuva (scw : Word) : State :=
  { coloured scw 0x0808 [0x10, 0, 0, 0, 0, 0] [0xA0, 0, 0, 0, 0, 0] [0xB0, 0, 0, 0, 0, 0] with
    ar := [0xC0, 0, 0, 0, 0, 0] }

theorem test_pkV408 :
    part (bytesAt 4) (exec (.pkV408 true) (yuva 0x00200800)) = some [0xA0, 0x10, 0xB0, 0xC0] ∧
      part (bytesAt 4) (exec (.pkV408 false) (yuva 0x00200000)) = some [0xA0, 0x10, 0xB0, 0xFF] := by decide

theorem test_pkAyuv :
    part (bytesAt 4) (exec (.pkAyuv true) (yuva 0x00210800)) = some [0xC0, 0x10, 0xA0, 0xB0] ∧
      part (bytesAt 4) (exec (.pkAyuv false) (yuva 0x00210000)) = some [0xFF, 0x10, 0xA0, 0xB0] := by decide

/-- W = 10 unsigned planes, least significant byte first. -/
theorem test_pkP16 :
    part (bytesAt 14) (exec (.pkP16 false) (coloured 0x00500000 0x0A0A [0x3FF, 1, 0, 0, 0, 0] [0x200, 0, 0, 0, 0, 0]
      [0x155, 0, 0, 0, 0, 0])) = some [0xC0, 0xFF, 0x40, 0, 0, 0, 0, 0, 0, 0, 0, 0, 0x00, 0x80] := by decide

/-- W = 16 signed. -/
theorem test_pkP16_signed :
    part (bytesAt 4) (exec (.pkP16 false) (coloured 0x00508000 0x1010 [-1, -32768, 0, 0, 0, 0] [0, 0, 0, 0, 0, 0]
      [0, 0, 0, 0, 0, 0])) = some [0xFF, 0xFF, 0x00, 0x80] := by decide

/-- Two pixels (R, G, B) = (3FF, 000, 155) and (1, 2, 3). -/
def rgb (scw : Word) : State :=
  coloured scw 0x0A0A [0x3FF, 1, 0, 0, 0, 0] [0, 2, 0, 0, 0, 0] [0x155, 3, 0, 0, 0, 0]

theorem test_pkRg30 : part (bytesAt 8) (exec .pkRg30 (rgb 0x00800200)) =
    some [0xFF, 0x03, 0x50, 0x15, 0x01, 0x08, 0x30, 0x00] := by decide

theorem test_pkAr10 : part (bytesAt 8) (exec .pkAr10 (rgb 0x00810200)) =
    some [0x55, 0x01, 0xF0, 0x3F, 0x03, 0x08, 0x10, 0x00] := by decide

theorem test_pkAb10 : part (bytesAt 8) (exec .pkAb10 (rgb 0x00820200)) =
    some [0xFF, 0x03, 0x50, 0x15, 0x01, 0x08, 0x30, 0x00] := by decide

theorem test_pkR210 : part (bytesAt 8) (exec .pkR210 (rgb 0x00830200)) =
    some [0x3F, 0xF0, 0x01, 0x55, 0x00, 0x10, 0x08, 0x03] := by decide

theorem test_pkDpx0 : part (bytesAt 8) (exec .pkDpx0 (rgb 0x00840200)) =
    some [0xFF, 0xC0, 0x05, 0x54, 0x00, 0x40, 0x20, 0x0C] := by decide

/-- W = 16 with alpha. -/
theorem test_pkB64a :
    part (bytesAt 8) (exec (.pkB64a true) { coloured 0x00900A00 0x1010 [0x1234, 0, 0, 0, 0, 0] [0x5678, 0, 0, 0, 0, 0]
      [0x9ABC, 0, 0, 0, 0, 0] with ar := [0xDEF0, 0, 0, 0, 0, 0] }) =
      some [0xDE, 0xF0, 0x12, 0x34, 0x56, 0x78, 0x9A, 0xBC] := by decide

/-- W = 10 without alpha. -/
theorem test_pkB64a_opaque :
    part (bytesAt 8) (exec (.pkB64a false) (coloured 0x00900200 0x0A0A [0x3FF, 0, 0, 0, 0, 0] [1, 0, 0, 0, 0, 0]
      [0x200, 0, 0, 0, 0, 0])) = some [0xFF, 0xFF, 0xFF, 0xC0, 0x00, 0x40, 0x80, 0x00] := by decide

/-- P1 where the platform rejects a channel-1 highpass read of row 1 (95 section 2.7): FAULT = 0x00010917. -/
theorem test_bus_error :
    failingReads { p1Busy with
      row := 1, lpPtr := ⟨0x1008, 0x2004, 0x3004, 0⟩, hpPtr := ⟨0x1108, 0x2104, 0x3104, 0⟩
      params := { Config.defaultParams with busErrors := true }, bus := ⟨[0x2104], []⟩ } = [(1, 2)] ∧
    faultWord (raiseFault .cvBus 1 2 { p1Busy with row := 1 }) = 0x00010917 := by decide

/-! ### Witnesses: states and operands that meet the hypotheses of the statements, clause by clause -/

/-- P1 as the statements about START and about a running strip see it. -/
theorem test_witness_checked : firstViolation p1 = none ∧ firstViolation p1Busy = none := by decide

theorem test_witness_decodedOperation :
    decode .cmd 2 = .ok .reset ∧ decode (.slot 0) 0xF1 = .ok (.synLim false 15) ∧ decode (.slot 7) 0 = .ok .adv := by decide

theorem test_witness_atMostOneRow :
    (⟨.slot 0, 0x3, 0x2, fun w => .synDsc (scwDshift w)⟩ : OpRow).hit (.slot 0) 2 = true := by decide

/-- With and without a pending RUN; ADV, another operation that goes on, one that faults the block, and one that stops
the model. -/
theorem test_witness_stepRunsOperation :
    (p1Busy.inputs = [] ∧ p1Busy.phase = .busy ∧ decode (.slot p1Busy.stage) p1Busy.scw = .ok (.synStd false)) ∧
      (∃ rest, (p1With .busy .run).inputs = .run :: rest ∧ (p1With .busy .run).phase = .busy) ∧
      part (·.phase) (exec (.synStd false) p1Busy) = some .busy ∧
      part (·.phase) (exec .adv { p1Busy with row := 1 }) = some .done ∧
      exec (.rsc false) p1Busy = .fault .unwrittenElement := by
  refine ⟨by decide, ⟨[], rfl, rfl⟩, by decide, by decide, rfl⟩

theorem test_witness_stepRunsCommand :
    (p1With .idle (.write .word 0x04 1)).inputs = .write .word 0x04 1 :: [] ∧ decode .cmd 1 = .ok .start := by decide

theorem test_witness_nextSlot : (0 : BitVec 3) < 7 ∧ (6 : BitVec 3) < 7 := by decide

theorem test_witness_quiescent :
    (p1.phase ≠ .busy ∧ p1.inputs = []) ∧ ((p1With .fault .run).phase ≠ .busy ∧ (p1With .fault .run).inputs = [.run]) ∧
      (p1With .done .wait).inputs = [.wait] ∧ (p1With .fault .wait).inputs = [.wait] ∧
      (p1With .idle .wait).inputs = [.wait] ∧
      part (·.inputs) (step { p1Busy with inputs := [.wait] }) = some [.wait] := by decide

/-- START in every state: ignored, refused by a check, with no rows, with rows. -/
theorem test_witness_start :
    p1Busy.phase = .busy ∧ (p1With .fault .run).phase = .fault ∧
      firstViolation { p1 with roi := 0x00020002 } = some ⟨.cvRoi, 0, 0⟩ ∧
      (firstViolation { p1 with roi := 6 } = none ∧ height { p1 with roi := 6 } = 0) ∧
      (firstViolation { p1 with phase := .done } = none ∧ height p1 ≠ 0) := by decide

theorem test_witness_reset :
    (p1With .busy .hardReset).inputs = [.hardReset] ∧ ¬((p1With .idle .hardReset).phase = .busy ∧
      (p1With .idle .hardReset).stage = 6) ∧ ({ p1Busy with stage := 6 }).phase = .busy := by decide

theorem test_witness_invalidCommand :
    (p1With .idle (.write .word 0x04 3)).inputs = [.write .word 0x04 3] ∧ 3 ≤ (3 : Word).toNat ∧
      3 ≤ (0xFFFFFFFF : Word).toNat ∧ (p1With .busy (.write .word 0x04 3)).phase = .busy := by decide

/-- The ends of every range of offsets. -/
theorem test_witness_registerReads :
    (p1With .idle (.read .word 0x40)).inputs = [.read .word 0x40] ∧
      (∀ o ∈ [0x00, 0x34, 0x38, 0x3C, 0x40, 0x4C, 0x50, 0x5C, 0x60, 0x6C, 0x70, 0x7C, 0x80, 0x84, 0x88, 0x8C, 0x90, 0x9C,
        0xA0, 0xAC, 0xB0, 0xFC], (BitVec.ofNat 8 o).toNat % 4 = 0) ∧
      part (·.rdata) (step (p1With .idle (.read .word 0xFC))) = some 0 ∧
      part (·.rdata) (step (p1With .idle (.read .word 0x58))) = some 0x3100 := by decide

theorem test_witness_descriptors :
    (regAt 0x7C = some (.hpPitch 3) ∧ isDescriptor (.hpPitch 3) = true) ∧ (regAt 0x14 = some .scw ∧ isDescriptor .scw = true) ∧
      (p1With .busy (.write .word 0x7C 9)).phase = .busy ∧ (p1With .fault (.write .word 0x14 9)).phase ≠ .busy ∧
      part (·.phase) (step p1Busy) = some .busy := by decide

theorem test_witness_otherAccesses :
    (p1With .busy (.write .word 0x10 3)).inputs = [.write .word 0x10 3] ∧
      (∀ o ∈ [0x00, 0x08, 0x0C, 0x38, 0x3C, 0x80, 0xFC], (BitVec.ofNat 8 o).toNat % 4 = 0) ∧
      step (p1With .idle (.write .half 0x10 3)) = .refused .registerAccess ∧
      step (p1With .idle (.read .word 0x11)) = .refused .registerAccess := by
  refine ⟨rfl, by decide, rfl, rfl⟩

/-- WRERR cleared by both resets, and set by a descriptor write, a START and an invalid command. -/
theorem test_witness_wrerr :
    part (·.wrerr) (step { p1With .fault .hardReset with wrerr := true }) = some false ∧
      part (·.wrerr) (step { p1With .fault (.write .word 0x04 2) with wrerr := true }) = some false ∧
      part (·.wrerr) (step (p1With .busy (.write .word 0x14 0))) = some true ∧
      part (·.wrerr) (step (p1With .fault (.write .word 0x04 1))) = some true ∧
      part (·.wrerr) (step (p1With .busy (.write .word 0x04 3))) = some true := by decide

/-- A coefficient written while BUSY is stored and its old value kept (R78: "either its old or its new value"); START
settles it; in IDLE there is nothing to keep. -/
theorem test_coefWrite_busy :
    part (fun t => (t.phase, coefSample t 0x1000, heldSamples t 0x1000, heldSamples t 0x1001))
      (step (p1With .busy (.coefWrite 0x1000 7))) = some (.busy, 7, [7, 0], [0]) ∧
    part (fun t => (t.overwritten, t.hostOut)) (exec .start { p1 with overwritten := [(0x1000, 0)], hostOut := [0x8000] }) =
      some ([], []) ∧
    part (·.overwritten) (step (p1With .idle (.coefWrite 0x1000 7))) = some [] ∧
    part (·.phase) (exec (.synStd false) { filtering 0 [8, 4] [] with overwritten := [(0, 5)] }) = some .busy := by decide

/-- A byte of OUT written while BUSY does the block no harm (R275): written before its row is packed, written after it,
and packed over. -/
theorem test_outWrite_busy :
    part (fun t => (outByte t 0x8000, t.hostOut)) (step (p1With .busy (.outWrite 0x8000 7))) = some (7, [0x8000]) ∧
    part (fun t => (t.phase, t.hostOut)) (step { p1With .busy (.outWrite 0x8000 7) with stage := 7 }) =
      some (.busy, [0x8000]) ∧
    part (·.phase) (exec .pkRg30 { rgb 0x00800200 with hostOut := [0x100] }) = some .busy := by decide

/-- The rows packed already, first to last byte, before and after slot 6 of row 1; and the ends of the output rows. -/
theorem test_witness_hostWrites :
    p1Busy.phase = .busy ∧ inPackedRows p1Busy 0x8000 = false ∧ inPackedRows { p1Busy with row := 1 } 0x8017 = true ∧
      inPackedRows { p1Busy with row := 1 } 0x8018 = false ∧ inPackedRows { p1Busy with row := 1, stage := 6 } 0x8020 = false ∧
      inPackedRows { p1Busy with row := 1, stage := 7 } 0x8020 = true ∧ inOutRows p1Busy 0x8000 = true ∧
      inOutRows p1Busy 0x8037 = true ∧ inOutRows p1Busy 0x8038 = false ∧
      (p1With .busy (.coefWrite 0x1000 7)).inputs = [.coefWrite 0x1000 7] ∧
      (p1With .idle (.outWrite 0x8000 7)).inputs = [.outWrite 0x8000 7] := by decide

/-- A row to pack with one byte that the host has written. -/
theorem test_witness_contested :
    siteOf .pkRg30 = .slot 6 ∧ (∃ bytes, packedBytes .pkRg30 { rgb 0x00800200 with hostOut := [0x100] } = .ok bytes ∧
      bytes.length = 24) ∧ WritesAnswered { rgb 0x00800200 with hostOut := [0x100] } 24 ∧
      ((rgb 0x00800200).outPtr + BitVec.ofNat 32 0).toNat ∈ [0x100] ∧
      ((rgb 0x00800200).outPtr + BitVec.ofNat 32 1).toNat ∉ [0x100] :=
  ⟨rfl, ⟨_, rfl, by decide⟩, fun k _ => by simp [outFails, rgb, coloured, small, State.reset, Config.defaultParams],
    by decide, by decide⟩

/-- Both sides of a clamp, both bounds and widths 1 and 16. -/
theorem test_witness_clamps :
    clamp (-1) 0 255 = 0 ∧ clamp 256 0 255 = 255 ∧ clamp 0 0 255 = 0 ∧ clamp 255 0 255 = 255 ∧ clamps (-9) 1 = -1 ∧
      clamps 40000 16 = 32767 := by decide

/-- SYN at the least width, full rate and half rate. -/
theorem test_witness_syn :
    (ChannelsWide (filtering 0x00100000 [8, 4] []) ∧ ReadsAnswered (filtering 0x00100000 [8, 4] [])) ∧
      ChannelsWide p1Busy ∧ ReadsAnswered p1Busy ∧ inUse p1Busy 2 = true ∧ inUse p1Busy 3 = false := by
  have answered : ∀ s : State, s.params.busErrors = false → ReadsAnswered s := fun s h ch _ c _ => by
    simp [coefFails, h]
  refine ⟨⟨?_, answered _ rfl⟩, ?_, answered _ rfl, by decide, by decide⟩ <;> (unfold ChannelsWide; decide)

/-- A completed SYN.STD, SYN.LIM and SYN.DSC, and an element each has written. -/
theorem test_witness_synRange :
    part (fun t => (t.phase, (t.rr.get 0).contains 4)) (exec (.synStd false) (filtering 0 [8, 4] [])) = some (.busy, true) ∧
      part (fun t => (t.phase, (t.rr.get 0).contains 3)) (exec (.synLim false 2) (filtering 1 [8, 4] [])) =
        some (.busy, true) ∧
      part (fun t => (t.phase, (t.rr.get 0).contains 9)) (exec (.synDsc false) (filtering 2 [8, 4] [])) =
        some (.busy, true) := by decide

/-- A flat lowpass row of the least width: 100 with a zero highpass row, as in S1; and one whose first sample the host
has written 100 over 100 while BUSY. -/
theorem test_witness_flat :
    (∀ c, c < chanCount (filtering 0 [100, 100, 100] []) 0 → (∀ v ∈ heldLow (filtering 0 [100, 100, 100] []) 0 c, v = 100) ∧
      ∀ v ∈ heldHigh (filtering 0 [100, 100, 100] []) 0 c, v = 0) ∧
    heldLow { filtering 0 [100, 100, 100] [] with overwritten := [(0, 100)] } 0 0 = [100, 100] := by decide

/-- A flat strip with its own highpass row per channel. -/
def flat : State := { filtering 0 [8, 8, 8] [] with hpPtr := ⟨0x10, 0x20, 0x30, 0x40⟩ }

/-- The same with highpass coefficient 1 of channel 0 changed. -/
def flatBut : State := { flat with coef := [(0, 8), (1, 8), (2, 8), (0x11, 6)] }

theorem test_witness_local :
    (∀ k j, inUse flat k = true → j < chanCount flat k →
      lowpass flatBut k j = lowpass flat k j ∧ (k = 0 ∧ j = 1 ∨ highpass flatBut k j = highpass flat k j)) ∧
    part (·.rr.c0) (exec (.synStd false) flat) = some [4, 4, 4, 4, 4, 4] ∧
      part (·.rr.c0) (exec (.synStd false) flatBut) = some [4, 4, 7, 1, 4, 4] := by
  have count : ∀ k, chanCount flat k = 3 := by decide
  have same : ∀ k, ∀ j < 3, lowpass flatBut k j = lowpass flat k j ∧
    (k = 0 ∧ j = 1 ∨ highpass flatBut k j = highpass flat k j) := by decide
  exact ⟨fun k j _ hj => same k j (count k ▸ hj), by decide, by decide⟩

/-- P1 on a platform that answers the last highpass read of channel 1 and the write of byte 0x8017 with an error. -/
def p1Errors : State :=
  { p1Busy with params := { Config.defaultParams with busErrors := true }, bus := ⟨[0x2102], [0x8017]⟩ }

theorem test_witness_synFaults :
    ChannelsWide p1Errors ∧ ¬ReadsAnswered p1Errors ∧ siteOf (.synStd false) = .slot 0 ∧ p1Errors.phase = .busy := by
  refine ⟨by unfold ChannelsWide; decide, fun h => ?_, rfl, rfl⟩
  have failing : coefFails p1Errors (p1Errors.hpPtr.get 1 + BitVec.ofNat 32 2) = true := by decide
  exact absurd (h 1 (by decide) 2 (by decide)).2 (by simp [failing])

/-- A channel of one and of two coefficients. -/
theorem test_witness_narrow :
    (inUse { p1Busy with scw := 0, roi := 0x10001 } 0 = true ∧ chanCount { p1Busy with scw := 0, roi := 0x10001 } 0 = 1) ∧
      inUse { p1Busy with roi := 0x10005 } 1 = true ∧ chanCount { p1Busy with roi := 0x10005 } 1 = 2 := by decide

/-- Held RR rows under a PREC. -/
def heldRR (prec : Word) : State :=
  { small 0x00500100 prec with rr := ⟨[0, 255, 256, -1, 5, 6], [0, 0, 0, 0, 0, 0], [0, 0, 0, 0, 0, 0], []⟩ }

/-- RSC and RSC.D on held rows, for a shift of at least two, of one, of none and to the left; both are next states. -/
theorem test_witness_rescale :
    (∀ prec, RowsHeld (heldRR prec) (heldRR prec).rr) ∧
      (∃ t, exec (.rscD false) (heldRR 0x080A) = .next t) ∧
      part (·.wr.c0) (exec (.rsc false) (heldRR 0x080A)) = some [0, 63, 64, 0, 1, 1] ∧
      part (·.wr.c0) (exec (.rsc false) (heldRR 0x0808)) = some [0, 255, 255, 0, 5, 6] ∧
      (∃ t u, exec (.rsc false) (heldRR 0x0808) = .next t ∧ exec (.rsc false) { t with rr := t.wr } = .next u) := by
  have held : ∀ prec, RowsHeld (heldRR prec) (heldRR prec).rr := fun prec => by
    have rows : channelsWritten (heldRR 0) (heldRR 0).rr = true := by decide
    exact (channelsWritten_iff _ _).1 rows
  exact ⟨held, execRscD_held false (held _), by decide, by decide, _, _, rfl, rfl⟩

/-- Held rows for CT.PASS, CT.DIFF and CT.ALPHA, with an alpha sample at DCoffset. -/
def heldRows : State :=
  { rescaled 0x00900A00 0x0808 [1, 2, 3, 4, 5, 6] [1, 2, 3, 4, 5, 6] [1, 2, 3, 4, 5, 6] with
    alphaDc := 16, wr := ⟨[1, 2, 3, 4, 5, 6], [1, 2, 3, 4, 5, 6], [1, 2, 3, 4, 5, 6], [16, 15, 0, 17, 255, 1]⟩ }

theorem test_witness_wrHeld :
    rowWidth heldRows ≤ heldRows.wr.c0.length ∧ rowWidth heldRows ≤ heldRows.wr.c1.length ∧
      2 * chanCount heldRows 2 ≤ heldRows.wr.c2.length ∧ rowWidth heldRows ≤ heldRows.wr.c3.length ∧
      elem heldRows.wr.c3 0 ≤ alphaDcValue heldRows := by decide

/-- Held rows for the matrices and the subsamplers, and a neutral pixel under the default matrices. -/
theorem test_witness_matrices :
    ComponentsHeld colours (rowWidth colours) ∧ colours.params.matrixRom = Config.defaultMatrixRom ∧ 8 ≤ pOut colours ∧
      elem colours.cr.k1 5 = elem colours.cr.k0 5 ∧ elem colours.cr.k2 5 = elem colours.cr.k0 5 ∧
      part (·.phase) (exec .ctMtxVs709 colours) = some .busy := by
  unfold ComponentsHeld
  decide

/-- Constant chroma rows. -/
def constantChroma : State := coloured 0x00100000 0x0808 [] [128, 128, 128, 128, 128, 128] [7, 7, 7, 7, 7, 7]

theorem test_witness_constantChroma :
    (∀ j, j < rowWidth constantChroma → elem constantChroma.cr.k1 j = 128 ∧ elem constantChroma.cr.k2 j = 7) ∧
      part (·.stage) (exec .ssPair constantChroma) = some 6 ∧ part (·.stage) (exec .ssCw constantChroma) = some 6 := by
  decide

/-- Half-rate planes for PK.P16. -/
def planes : State := { coloured 0x00500400 0x0A0A [0x3FF, 1, 0, 0, 0, 0, 0, 0, 0, 0, 0, 0] [0x200, 0, 0, 0, 0, 0]
  [0x155, 0, 0, 0, 0, 0] with roi := 0x00010006 }

/-- Rows held and writes answered for every packer, with and without a half-rate source and an alpha channel. -/
theorem test_witness_pack :
    (Rows422Held false (yuv422 0x00100000) ∧ RowWritable (yuv422 0x00100000) (4 * coefCount (yuv422 0x00100000))) ∧
      Rows422Held true (coloured 0x00120400 0x0A0A [1, 2, 3, 4, 5, 0x3FF] [0x100, 0x101, 0x102] [0x200, 0x201, 0x202]) ∧
      (ComponentsHeld (yuva 0x00200800) 6 ∧ AlphaHeld true (yuva 0x00200800) ∧ AlphaHeld false (rgb 0x00800200) ∧
        pOut (yuva 0x00200800) = 8 ∧ rowWidth (yuva 0x00200800) = 6 ∧ RowWritable (yuva 0x00200800) 48) ∧
      rowWidth planes = planes.cr.k0.length ∧ 2 * chanCount planes 1 = planes.cr.k1.length ∧
      2 * chanCount planes 1 = planes.cr.k2.length := by
  have writable : ∀ (s : State) (n : Nat), s.params.busErrors = false → s.hostOut = [] → RowWritable s n :=
    fun s n h hh => ⟨fun k _ => by simp [outFails, h], fun k _ => by simp [hh]⟩
  refine ⟨⟨?_, writable _ _ rfl rfl⟩, ?_, ⟨?_, ?_, ?_, by decide, by decide, writable _ _ rfl rfl⟩, by decide, by decide,
    by decide⟩ <;> simp only [Rows422Held, ComponentsHeld, AlphaHeld] <;> decide

/-- The bounds of every field. -/
theorem test_witness_fields :
    isTen 0 ∧ isTen 1023 ∧ (byteOf 255).toNat = 255 ∧ (byteOf 0).toNat = 0 ∧ (up16 10 1023).toNat = 1023 * 2 ^ 6 ∧
      (up16 0 0).toNat = 0 ∧ (up16 16 (-32768)).toInt = -32768 ∧ (up16 1 (-1)).toInt = -32768 := by
  unfold isTen
  decide

/-- A byte list of exactly ROWBYTES bytes. -/
theorem test_witness_rowbytes :
    format (rgb 0x00800200) = some .rg30 ∧ decode (.slot 6) 0x00800200 = .ok .pkRg30 ∧
      (packedBytes .pkRg30 (rgb 0x00800200)).toOption.map List.length = some (rowBytes .rg30 (rgb 0x00800200)) := by decide

/-- A 10-bit RGB row on a platform that rejects its last byte. -/
def rgbErrors : State :=
  { rgb 0x00800200 with params := { Config.defaultParams with busErrors := true }, bus := ⟨[], [0x117]⟩ }

theorem test_witness_packFault :
    siteOf .pkRg30 = .slot 6 ∧ rgbErrors.phase = .busy ∧
      (∃ bytes, packedBytes .pkRg30 rgbErrors = .ok bytes ∧ bytes.length = 24) ∧ ¬WritesAnswered rgbErrors 24 := by
  have failing : outFails rgbErrors (rgbErrors.outPtr + BitVec.ofNat 32 23) = true := by decide
  exact ⟨rfl, rfl, ⟨_, rfl, by decide⟩, fun h => absurd (h 23 (by decide)) (by simp [failing])⟩

/-- P1 after START holds no row; the colours hold CR and no AR. -/
theorem test_witness_unwritten :
    ¬RowsHeld p1Busy p1Busy.rr ∧ ¬2 * chanCount p1Busy 0 ≤ p1Busy.wr.c0.length ∧ ¬rowWidth p1Busy ≤ p1Busy.wr.c0.length ∧
      p1Busy.wr.c3.length < rowWidth p1Busy ∧ ¬ComponentsHeld p1Busy (rowWidth p1Busy) ∧
      ¬rowWidth p1Busy ≤ p1Busy.cr.k1.length ∧ ¬Rows422Held true p1Busy ∧ ¬Rows422Held false p1Busy ∧
      ¬(ComponentsHeld colours (rowWidth colours) ∧ AlphaHeld true colours) ∧
      ¬rowWidth p1Busy ≤ p1Busy.cr.k0.length := by
  refine ⟨fun h => absurd (h 0 (by decide)) (by decide), by decide, by decide, by decide, ?_, by decide, ?_, ?_, ?_,
    by decide⟩ <;> simp only [ComponentsHeld, Rows422Held, AlphaHeld] <;> decide

/-- A step for each way STATE can change. -/
theorem test_witness_stateChanges :
    part (·.phase) (step (p1With .done .hardReset)) = some .idle ∧
      part (·.phase) (step (p1With .fault (.write .word 0x04 2))) = some .idle ∧
      part (·.phase) (step (p1With .idle (.write .word 0x04 1))) = some .busy ∧
      part (·.phase) (step { p1With .idle (.write .word 0x04 1) with roi := 6 }) = some .done ∧
      part (·.phase) (step { p1With .idle (.write .word 0x04 1) with roi := 2 }) = some .fault ∧
      part (·.phase) (step (p1With .done (.write .word 0x04 3))) = some .fault ∧
      part (·.phase) (step { p1Busy with stage := 7, row := 1 }) = some .done := by decide

theorem test_witness_faultSticks :
    part (·.phase) (step (p1With .fault (.write .word 0x04 1))) = some .fault ∧
      (p1With .fault .run).inputs.head? ≠ some .hardReset ∧
      (p1With .fault .run).inputs.head? ≠ some (.write .word 0x04 0x00000002) := by decide

theorem test_witness_canonical : MemoriesCanonical (filtering 0 [8, 4] []) := by
  unfold MemoriesCanonical
  decide

/-- P1 right after START meets the invariant of a strip, and the other hypotheses of a run to DONE. -/
theorem test_witness_stripInv : StripInv p1Busy ∧ p1Busy.phase = .busy ∧ p1Busy.row = 0 ∧ p1Busy.stage = 0 ∧
    p1Busy.inputs = [] ∧ p1Busy.params.busErrors = false := by
  refine ⟨fun _ => ⟨by decide, by decide, by decide, ⟨by decide, by decide⟩, ?_⟩, rfl, rfl, rfl, rfl, rfl⟩
  refine ⟨?_, ?_, ?_, ?_, ?_⟩ <;> intro h <;> exact absurd h (by decide)

end Sys2Proof.Tests
end

section
/-! SUPPORT. What the shifts, the roundings and the clamps of R11 to R14 compute, and the statement about them. -/

namespace Sys2Proof.Machine

/-! ### Shifts (R11) -/

theorem asr_mul_pow_le (x : Int) (k : Nat) : asr x k * 2 ^ k ≤ x := Int.ediv_mul_le x (by positivity)

theorem lt_asr_add_one_mul_pow (x : Int) (k : Nat) : x < (asr x k + 1) * 2 ^ k :=
  Int.lt_ediv_add_one_mul_self x (by positivity)

theorem shl_eq (x : Int) (k : Nat) : shl x k = x * 2 ^ k := rfl

/-! ### Rounding and halving (R12, R13) -/

theorem rd8_eq (x : Int) : rd8 x = (x + 4) / 8 := rfl

theorem d2_false (x : Int) : d2 x false = x / 2 := rfl

theorem d2_true (x : Int) : d2 x true = (x + 1) / 2 := rfl

/-! ### Clamps (R14) -/

theorem clamp_of_lt {x lo : Int} (hi : Int) (h : x < lo) : clamp x lo hi = lo := if_pos h

theorem clamp_of_gt {x lo hi : Int} (hlo : lo ≤ x) (hhi : hi < x) : clamp x lo hi = hi := by
  rw [clamp, if_neg (not_lt.2 hlo), if_pos hhi]

theorem clamp_of_mem {x lo hi : Int} (hlo : lo ≤ x) (hhi : x ≤ hi) : clamp x lo hi = x := by
  rw [clamp, if_neg (not_lt.2 hlo), if_neg (not_lt.2 hhi)]

/-- Settles O23: the shift is Lean's floor division, and `rd8` and `d2` are divisions by a constant; a clamp by cases
on where the value lies. -/
theorem arithmeticPrimitives : Obligations.ArithmeticPrimitives := by
  refine ⟨fun x k => ⟨asr_mul_pow_le x k, lt_asr_add_one_mul_pow x k, shl_eq x k⟩, fun x => ?_, fun x => ?_,
    fun x lo hi => ⟨clamp_of_lt hi, clamp_of_gt, clamp_of_mem⟩, fun _ => rfl, fun _ _ => rfl, fun _ _ _ => rfl⟩
  · rw [rd8_eq]; omega
  · rw [d2_false, d2_true]; omega

end Sys2Proof.Machine
end

section
/-! SUPPORT. RSC.D element by element: the bound of its draw and the two cases of R136. -/

namespace Sys2Proof.Machine

/-- The shift of R133 with the two cases that do not shift right taken together. -/
theorem rescaleShift_eq (pInt pOut : Nat) (v : Int) :
    rescaleShift pInt pOut v = if pOut < pInt then asr v (pInt - pOut) else v * 2 ^ (pOut - pInt) := by
  unfold rescaleShift
  split
  · rfl
  · split
    · rfl
    · have equal : pOut - pInt = 0 := by omega
      rw [equal, pow_zero, mul_one]

/-- A draw is at most 2^(s-1) - 1 (R136). -/
theorem ditherTerm_le (event channel element shift : Nat) :
    ditherTerm event channel element shift ≤ 2 ^ (shift - 1) - 1 :=
  Nat.le_sub_one_of_lt (Nat.mod_lt _ (by positivity))

/-- With a shift of at least 2 an element of RSC.D is shifted with its draw added (R136). -/
theorem ditherFunction_of_shift {outsign : Bool} {s : State} (h : pOut s + 2 ≤ pInt s) (ch : Fin 4)
    (i : Nat) (v : Int) :
    ditherFunction outsign s ch i v = saturate outsign (pOut s)
      (asr (v + ditherTerm s.freeCount ch.val i (pInt s - pOut s)) (pInt s - pOut s)) := by
  rw [ditherFunction, if_pos h, rescaleDithered, if_pos h]

/-- With a smaller shift RSC.D "is exactly RSC" (R136). -/
theorem ditherFunction_of_small {outsign : Bool} {s : State} (h : pInt s < pOut s + 2) (ch : Fin 4)
    (i : Nat) (v : Int) :
    ditherFunction outsign s ch i v = rescale outsign (pInt s) (pOut s) v := by
  rw [ditherFunction, if_neg (by omega)]

/-- On held rows RSC.D completes, and a row of WR is the rescaled row of its channel, or as before for a channel that
is not in use (R130). -/
theorem exec_rscD_held (outsign : Bool) {s : State} (h : RowsHeld s s.rr) :
    ∃ t, exec (.rscD outsign) s = .next t ∧ t = { s with wr := t.wr, freeCount := t.freeCount } ∧
      ∀ ch, t.wr.get ch = if inUse s ch then rescaledRow (ditherFunction outsign s) s ch else s.wr.get ch := by
  obtain ⟨t, ht⟩ := execRscD_held outsign h
  obtain ⟨-, after⟩ := execRscD_next ht
  exact ⟨t, ht, by rw [after], fun ch => by rw [after]; exact Quad.get_build _ ch⟩

/-- Settles O32: on held rows every element of a channel in use is `ditherFunction` of its value, which is read in
R136's two cases; the witness of the free `r` is the model's own draw. -/
theorem rscDResult : Obligations.RscDResult := by
  intro outsign s held
  obtain ⟨t, ht, frame, rows⟩ := exec_rscD_held outsign held
  refine ⟨t, ht, frame, ?_, fun ch used => ?_, fun ch unused => by rw [rows ch, unused]; rfl⟩
  · rw [frame]; exact ⟨fun _ => rfl, fun _ => rfl⟩
  · have row : t.wr.get ch = rescaledRow (ditherFunction outsign s) s ch := by rw [rows ch, if_pos used]
    rw [row]
    refine ⟨rescaledRow_length _ s ch, fun i hi => ⟨fun large => ?_, fun small => ?_⟩⟩
    · refine ⟨ditherTerm s.freeCount ch.val i (pInt s - pOut s), ditherTerm_le _ _ _ _, ?_⟩
      rw [rescaledRow_getElem? _ s ch hi, ditherFunction_of_shift large]; rfl
    · rw [rescaledRow_getElem? _ s ch hi, ditherFunction_of_small small, rescale, rescaleShift_eq]; rfl

end Sys2Proof.Machine
end

section
/-! SUPPORT. What a decoded operation says of the fields of its strip control word (R90, R96), and which slots a word
fills (R95). -/

namespace Sys2Proof.Machine

/-! ### Fields of a masked word -/

/-- A bit inside the mask of a met row stands as in the row's pattern. -/
theorem getLsbD_of_masked {w m p : Word} (h : w &&& m = p) (k : Nat) (hk : m.getLsbD k = true := by decide) :
    w.getLsbD k = p.getLsbD k := by
  rw [← h, BitVec.getLsbD_and, hk, Bool.and_true]

/-- A field inside the mask of a met row holds what the row's pattern holds there. -/
theorem extractLsb'_of_masked {w m p : Word} (h : w &&& m = p) (start len : Nat)
    (hm : m.extractLsb' start len = BitVec.allOnes len := by decide) :
    w.extractLsb' start len = p.extractLsb' start len := by
  rw [← h, BitVec.extractLsb'_and, hm, BitVec.and_allOnes]

/-! ### The fields of each operation -/

/-- What an operation says of the strip control word it was decoded from: its operands are the word's fields, and the
fields its match fixes select it (R90, R96, R97). -/
def FieldsFit (w : Word) : Instr → Prop
  | .rsc outsign | .rscD outsign => outsign = scwOutsign w
  | .ctDiff | .ctMtxCg601 | .ctMtxVs601 | .ctMtxCg709 | .ctMtxVs709 => scwSrc w = true
  | .ctAlpha => scwAlpha w = true
  | .ssPair | .ssCw => scwSrc422 w = false
  | .pkYuyv src422 | .pkUyvy src422 | .pkV210 src422 => src422 = scwSrc422 w ∧ scwIs422 w = true
  | .pkV408 alpha => alpha = scwAlpha w ∧ formatOf (scwFormat w) = some .v408
  | .pkAyuv alpha => alpha = scwAlpha w ∧ formatOf (scwFormat w) = some .ayuv
  | .pkP16 alpha => alpha = scwAlpha w
  | .pkRg30 | .pkAr10 | .pkAb10 | .pkR210 | .pkDpx0 => scwIsRgb w = true
  | .pkB64a alpha => alpha = scwAlpha w ∧ scwIsRgb w = true
  | .nop | .start | .reset | .synStd _ | .synLim _ _ | .synDsc _ | .ctPass | .adv => True

/-- A row of the opcode map builds operations that fit the words it is met by. -/
def RowFits (r : OpRow) : Prop := ∀ w, w &&& r.mask = r.pattern → FieldsFit w (r.build w)

theorem filterRows_fit : ∀ r ∈ filterRows, RowFits r := by
  simp only [filterRows, List.forall_mem_cons]
  exact ⟨fun _ _ => trivial, fun _ _ => trivial, fun _ _ => trivial, fun _ _ => rfl, fun _ _ => rfl, by simp⟩

theorem colorRows_fit : ∀ r ∈ colorRows, RowFits r := by
  simp only [colorRows, List.forall_mem_cons]
  exact ⟨fun _ _ => trivial, fun _ h => getLsbD_of_masked h 9, fun _ h => getLsbD_of_masked h 9,
    fun _ h => getLsbD_of_masked h 9, fun _ h => getLsbD_of_masked h 9, fun _ h => getLsbD_of_masked h 9,
    fun _ h => getLsbD_of_masked h 11, by simp⟩

/-- FORMAT bits 7:4 are 1 in a word whose FORMAT a 4:2:2 packer's row has met (R98). -/
theorem is422_of_masked {w p : Word} (h : w &&& 0x00FF0000 = p) (hp : p.extractLsb' 20 4 = 1 := by decide) :
    scwIs422 w = true := by
  rw [scwIs422, extractLsb'_of_masked h 20 4, hp]; rfl

/-- The format a met row of slot 6 names (R97). -/
theorem format_of_masked {w p : Word} (h : w &&& 0x00FF0000 = p) :
    formatOf (scwFormat w) = formatOf (scwFormat p) := by
  unfold scwFormat; rw [extractLsb'_of_masked h 16 8]

theorem packRows_fit : ∀ r ∈ packRows, RowFits r := by
  simp only [packRows, List.forall_mem_cons]
  exact ⟨fun _ h => getLsbD_of_masked h 10, fun _ h => getLsbD_of_masked h 10,
    fun _ h => ⟨rfl, is422_of_masked h⟩, fun _ h => ⟨rfl, is422_of_masked h⟩, fun _ h => ⟨rfl, is422_of_masked h⟩,
    fun _ h => ⟨rfl, format_of_masked h⟩, fun _ h => ⟨rfl, format_of_masked h⟩, fun _ _ => rfl,
    fun _ h => getLsbD_of_masked h 23, fun _ h => getLsbD_of_masked h 23, fun _ h => getLsbD_of_masked h 23,
    fun _ h => getLsbD_of_masked h 23, fun _ h => getLsbD_of_masked h 23,
    fun _ h => ⟨rfl, getLsbD_of_masked h 23⟩, fun _ _ => trivial, by simp⟩

theorem commandRows_fit : ∀ r ∈ commandRows, RowFits r := by
  simp only [commandRows, List.forall_mem_cons]
  exact ⟨fun _ _ => trivial, fun _ _ => trivial, fun _ _ => trivial, by simp⟩

theorem decode_fields {site : Site} {w : Word} {i : Instr} (h : decode site w = .ok i) : FieldsFit w i := by
  obtain ⟨r, hr, -, hw, rfl⟩ := decode_ok_row h
  simp only [opTable, List.mem_append] at hr
  obtain ((hr | hr) | hr) | hr := hr
  · exact commandRows_fit r hr w hw
  · exact filterRows_fit r hr w hw
  · exact colorRows_fit r hr w hw
  · exact packRows_fit r hr w hw

/-! ### Which slots are filled (R95) -/

theorem slotFilled_iff {w : Word} {k : BitVec 3} : slotFilled w k = true ↔ ∃ i, decode (.slot k) w = .ok i := by
  unfold slotFilled
  cases decode (.slot k) w <;> simp

/-- A mask of one bit tells the two values of that bit apart. -/
theorem and_bit (w : Word) (k : Nat) : w &&& bitAt true k = bitAt (w.getLsbD k) k := by
  rw [show bitAt true k = BitVec.twoPow 32 k from rfl, BitVec.and_twoPow]
  cases w.getLsbD k <;> rfl

/-- The two low bits of a word are SYNMODE (R90). -/
theorem and_three (w : Word) : w &&& 3 = (scwSynmode w).setWidth 32 := by
  apply BitVec.eq_of_getLsbD_eq
  intro i hi
  interval_cases i <;> simp [scwSynmode]

/-- The fields that the match of slot 5 fixes: FORMAT bits 7:4, SUBSAMP and SRC422 (R96). -/
theorem and_slot5_mask (w : Word) : w &&& (0x00F04400 : Word) =
    (w.extractLsb' 20 4).setWidth 32 <<< 20 ||| bitAt (w.getLsbD 14) 14 ||| bitAt (w.getLsbD 10) 10 := by
  rw [← and_bit, ← and_bit]
  apply BitVec.eq_of_getLsbD_eq
  intro i hi
  interval_cases i <;> simp [bitAt]

theorem slotFilled_zero {w : Word} (h : scwSynmode w ≠ 3) : slotFilled w 0 = true := by
  have modes : ∀ m : BitVec 2, m ≠ 3 → m = 0 ∨ m = 1 ∨ m = 2 := by decide
  rw [slotFilled_iff, decode_slot0, and_three]
  obtain hm | hm | hm := modes _ h <;> rw [hm] <;> exact ⟨_, rfl⟩

theorem slotFilled_one (w : Word) : slotFilled w 1 = true := by
  rw [slotFilled_iff, decode_slot1, show (0x00000100 : Word) = bitAt true 8 from rfl, and_bit]
  cases w.getLsbD 8 <;> exact ⟨_, rfl⟩

theorem slotFilled_two (w : Word) : slotFilled w 2 = true := by
  rw [slotFilled_iff, decode_slot2, show (0x00000200 : Word) = bitAt true 9 from rfl, and_bit]
  cases w.getLsbD 9 <;> exact ⟨_, rfl⟩

theorem slotFilled_four (w : Word) : slotFilled w 4 = scwAlpha w := by
  rw [slotFilled, decode_slot4, show (0x00000800 : Word) = bitAt true 11 from rfl, and_bit, scwAlpha, wordBit]
  cases w.getLsbD 11 <;> rfl

theorem slotFilled_five {w : Word} (h : scwIs422 w = true) (hs : scwSrc422 w = false) : slotFilled w 5 = true := by
  rw [slotFilled_iff, decode_slot5, and_slot5_mask, of_decide_eq_true h, show w.getLsbD 10 = false from hs]
  cases w.getLsbD 14 <;> exact ⟨_, rfl⟩

theorem slotFilled_seven (w : Word) : slotFilled w 7 = true := slotFilled_iff.2 ⟨_, decode_slot7 w⟩

/-! ### The walk over the slots (R226) -/

/-- A search of a rising list finds its least hit. -/
theorem find?_le_of_mem {l : List (BitVec 3)} (sorted : l.Pairwise (· < ·)) {p : BitVec 3 → Bool} {a b : BitVec 3}
    (h : l.find? p = some a) (hb : b ∈ l) (pb : p b = true) : a ≤ b := by
  obtain ⟨-, before, after, rfl, hbefore⟩ := List.find?_eq_some_iff_append.1 h
  rw [List.pairwise_append, List.pairwise_cons] at sorted
  obtain ⟨-, ⟨rising, -⟩, -⟩ := sorted
  obtain hb | hb := List.mem_append.1 hb
  · simpa [pb] using hbefore b hb
  obtain rfl | hb := List.mem_cons.1 hb
  · exact BitVec.le_refl b
  · exact BitVec.le_of_lt (rising b hb)

/-- From every slot but the last, the walk goes on to the least filled slot after it. -/
theorem nextSlot_spec (w : Word) {k : BitVec 3} (hk : k ≠ 7) :
    k < nextSlot w k ∧ slotFilled w (nextSlot w k) = true ∧
      ∀ j, k < j → slotFilled w j = true → nextSlot w k ≤ j := by
  have all : ∀ j : BitVec 3, j ∈ allSlots := by decide
  have last : k < 7 := by bv_omega
  obtain ⟨j, hj⟩ : ∃ j, allSlots.find? (fun j => decide (k < j) && slotFilled w j) = some j :=
    Option.isSome_iff_exists.1 (List.find?_isSome.2 ⟨7, all 7, by simpa using And.intro last (slotFilled_seven w)⟩)
  have hit := List.find?_some hj
  rw [Bool.and_eq_true, decide_eq_true_eq] at hit
  rw [nextSlot, hj, Option.getD_some]
  exact ⟨hit.1, hit.2, fun i hi fi => find?_le_of_mem (by decide) hj (all i) (by simp [hi, fi])⟩

end Sys2Proof.Machine
end

section
/-! SUPPORT. What each stage operation leaves alone, slot by slot, and what every step keeps. -/

namespace Sys2Proof.Machine

/-- What an operation of slot `k` leaves alone: everything but the row buffers, OUT and the count of free values, and
of these everything that is not its slot's to write (R112, R130, R146, R171, R176). -/
structure SlotFrame (k : BitVec 3) (s u : State) : Prop where
  shape : u = { s with
    rr := u.rr, wr := u.wr, cr := u.cr, sr := u.sr, ar := u.ar, out := u.out, freeCount := u.freeCount }
  rr : k ≠ 0 → u.rr = s.rr
  wr : k ≠ 1 → u.wr = s.wr
  cr : k ≠ 2 → k ≠ 3 → u.cr = s.cr
  ar : k ≠ 4 → u.ar = s.ar
  sr : k ≠ 5 → u.sr = s.sr
  out : k ≠ 6 → u.out = s.out

theorem slotFrame_rr (s : State) (rows : Quad Row) : SlotFrame 0 s (useFree { s with rr := rows }) :=
  ⟨rfl, fun h => absurd rfl h, fun _ => rfl, fun _ _ => rfl, fun _ => rfl, fun _ => rfl, fun _ => rfl⟩

theorem slotFrame_wr (s : State) (rows : Quad Row) (n : Nat) : SlotFrame 1 s { s with wr := rows, freeCount := n } :=
  ⟨rfl, fun _ => rfl, fun h => absurd rfl h, fun _ _ => rfl, fun _ => rfl, fun _ => rfl, fun _ => rfl⟩

theorem slotFrame_cr {k : BitVec 3} (hk : k = 2 ∨ k = 3) (s : State) (rows : Components) :
    SlotFrame k s { s with cr := rows } :=
  ⟨rfl, fun _ => rfl, fun _ => rfl, fun h2 h3 => (hk.elim h2 h3).elim, fun _ => rfl, fun _ => rfl, fun _ => rfl⟩

theorem slotFrame_ar (s : State) (row : Row) : SlotFrame 4 s { s with ar := row } :=
  ⟨rfl, fun _ => rfl, fun _ => rfl, fun _ _ => rfl, fun h => absurd rfl h, fun _ => rfl, fun _ => rfl⟩

theorem slotFrame_sr (s : State) (rows : HalfChroma) : SlotFrame 5 s { s with sr := rows } :=
  ⟨rfl, fun _ => rfl, fun _ => rfl, fun _ _ => rfl, fun _ => rfl, fun h => absurd rfl h, fun _ => rfl⟩

theorem slotFrame_out (keep : Nat → Bool) (bytes : List Byte) (s : State) : SlotFrame 6 s (writeRow keep bytes s) :=
  ⟨rfl, fun _ => rfl, fun _ => rfl, fun _ _ => rfl, fun _ => rfl, fun _ => rfl, fun h => absurd rfl h⟩

/-- How an operation of slot `k` ends: within the frame of its slot, or, in the two slots that reach a memory, with
CV_BUS raised from such a state (R246). -/
def SlotEnd (k : BitVec 3) (s t : State) : Prop :=
  SlotFrame k s t ∨
    ((k = 0 ∨ k = 6) ∧ ∃ u ch buf, SlotFrame k s u ∧ t = raiseFault .cvBus ch buf u)

theorem synthesize_end {finish : Int → Int} {s t : State} (h : synthesize finish s = .next t) : SlotEnd 0 s t := by
  obtain ⟨-, ⟨-, rfl⟩ | ⟨-, rfl⟩⟩ := synthesize_next h
  · exact .inl (slotFrame_rr s _)
  · exact .inr ⟨.inl rfl, _, _, _, slotFrame_rr s s.rr, rfl⟩

theorem storeRow_end {packed : Except Fault (List Byte)} {s t : State} (h : storeRow packed s = .next t) :
    SlotEnd 6 s t := by
  obtain ⟨bytes, -, ⟨-, rfl⟩ | ⟨-, rfl⟩⟩ := storeRow_next h
  · exact .inl (slotFrame_out _ bytes s)
  · exact .inr ⟨.inr rfl, _, _, _, slotFrame_out _ bytes s, rfl⟩

theorem applyMatrix_end {m : Config.Matrix} {s t : State} (h : applyMatrix m s = .next t) : SlotEnd 3 s t := by
  obtain ⟨-, rfl⟩ := applyMatrix_next h
  exact .inl (slotFrame_cr (.inr rfl) s _)

theorem subsample_end {f : Row → Nat → Int} {s t : State} (h : subsample f s = .next t) : SlotEnd 5 s t := by
  obtain ⟨-, -, rfl⟩ := subsample_next h
  exact .inl (slotFrame_sr s _)

/-- Everything a stage operation other than ADV can do, said by its slot. -/
theorem stage_end {i : Instr} {k : BitVec 3} {s t : State} (hk : siteOf i = .slot k) (hi : i ≠ .adv)
    (h : exec i s = .next t) : SlotEnd k s t := by
  by_cases pack : k = 6
  · subst pack
    rw [exec_pack hk] at h
    exact storeRow_end h
  cases i with
  | nop | start | reset => cases hk
  | synStd _ | synLim _ _ | synDsc _ => cases hk; exact synthesize_end h
  | rsc _ => cases hk; rw [(rescaleRows_next h).2]; exact .inl (slotFrame_wr s _ _)
  | rscD _ => cases hk; rw [(execRscD_next h).2]; exact .inl (slotFrame_wr s _ _)
  | ctPass => cases hk; rw [(execCtPass_next h).2.2.2]; exact .inl (slotFrame_cr (.inl rfl) s _)
  | ctDiff => cases hk; rw [(execCtDiff_next h).2.2.2]; exact .inl (slotFrame_cr (.inl rfl) s _)
  | ctMtxCg601 | ctMtxVs601 | ctMtxCg709 | ctMtxVs709 => cases hk; exact applyMatrix_end h
  | ctAlpha => cases hk; rw [(execCtAlpha_next h).2]; exact .inl (slotFrame_ar s _)
  | ssPair | ssCw => cases hk; exact subsample_end h
  | adv => exact absurd rfl hi
  | _ => cases hk; exact absurd rfl pack

end Sys2Proof.Machine
end

section
/-! SUPPORT. The ranges of the arithmetic's results (R14, R116 to R119, R132, R172, R173). -/

namespace Sys2Proof.Machine

/-! ### Ranges of the results -/

theorem clamp_mem {lo hi : Int} (h : lo ≤ hi) (x : Int) : lo ≤ clamp x lo hi ∧ clamp x lo hi ≤ hi := by
  unfold clamp
  split
  · omega
  · split <;> omega

theorem clamp16_mem (x : Int) : -32768 ≤ clamp16 x ∧ clamp16 x ≤ 32767 := clamp_mem (by decide) x

theorem clampu_mem (x : Int) (b : Nat) : 0 ≤ clampu x b ∧ clampu x b ≤ 2 ^ b - 1 := by
  have pos : (0 : Int) < 2 ^ b := by positivity
  exact clamp_mem (by omega) x

theorem clamps_mem (x : Int) (b : Nat) : -(2 ^ (b - 1)) ≤ clamps x b ∧ clamps x b ≤ 2 ^ (b - 1) - 1 := by
  have pos : (0 : Int) < 2 ^ (b - 1) := by positivity
  exact clamp_mem (by omega) x

/-- The last step of a SYN operation gives 16-bit values (R21, R117 to R119). -/
def Fits16 (finish : Int → Int) : Prop := ∀ x, -32768 ≤ finish x ∧ finish x ≤ 32767

/-- Halving a 16-bit value, plain or rounded, gives one. -/
theorem d2_mem16 {x : Int} (h : -32768 ≤ x ∧ x ≤ 32767) (rounded : Bool) :
    -32768 ≤ d2 x rounded ∧ d2 x rounded ≤ 32767 := by
  cases rounded
  · rw [d2_false]; omega
  · rw [d2_true]; omega

theorem finishStd_fits (rounded : Bool) : Fits16 (finishStd rounded) := fun x => d2_mem16 (clamp16_mem x) rounded

theorem finishLim_fits (rounded : Bool) (limbits : BitVec 4) : Fits16 (finishLim rounded limbits.toNat) := by
  intro x
  obtain ⟨lo, hi⟩ := clampu_mem (d2 (clamp16 x) rounded) limbits.toNat
  have bound : (2 : Int) ^ limbits.toNat ≤ 2 ^ 15 := pow_le_pow_right₀ (by decide) (by omega)
  exact ⟨by unfold finishLim; omega, by unfold finishLim; omega⟩

theorem finishDsc_fits (shift : Bool) : Fits16 (finishDsc shift) := fun _ => clamp16_mem _

theorem pairAverage_mem {lo hi a b : Int} (ha : lo ≤ a ∧ a ≤ hi) (hb : lo ≤ b ∧ b ≤ hi) :
    lo ≤ pairAverage a b ∧ pairAverage a b ≤ hi := by
  unfold pairAverage asr; omega

theorem centreAverage_mem {lo hi a b c : Int} (ha : lo ≤ a ∧ a ≤ hi) (hb : lo ≤ b ∧ b ≤ hi) (hc : lo ≤ c ∧ c ≤ hi) :
    lo ≤ centreAverage a b c ∧ centreAverage a b c ≤ hi := by
  unfold centreAverage asr; omega

/-! ### Ranges of rows -/

theorem rowIn_rowFrom {n : Nat} {f : Nat → Int} {lo hi : Int} (h : ∀ i, i < n → lo ≤ f i ∧ f i ≤ hi) :
    RowIn (rowFrom n f) n lo hi :=
  ⟨(rowFrom_length n f).ge, fun i hi => by rw [elem_rowFrom hi]; exact h i hi⟩

theorem rowIn_copyRow {row : Row} {n : Nat} {lo hi : Int} (h : RowIn row n lo hi) : RowIn (copyRow n row) n lo hi :=
  rowIn_rowFrom h.2

/-- The pairs of a row that holds `2 * n` values in a range have their averages in it (R172). -/
theorem rowIn_pairSample {row : Row} {n : Nat} {lo hi : Int} (h : RowIn row (2 * n) lo hi) :
    RowIn (rowFrom n (pairSample row)) n lo hi :=
  rowIn_rowFrom fun j hj => pairAverage_mem (h.2 (2 * j) (by omega)) (h.2 (2 * j + 1) (by omega))

/-- The same for the centre-weighted averages (R173). -/
theorem rowIn_centreSample {row : Row} {n : Nat} {lo hi : Int} (h : RowIn row (2 * n) lo hi) :
    RowIn (rowFrom n (centreSample row)) n lo hi := by
  refine rowIn_rowFrom fun j hj => centreAverage_mem ?_ (h.2 (2 * j) (by omega)) (h.2 (2 * j + 1) (by omega))
  split
  · exact h.2 0 (by omega)
  · exact h.2 (2 * j - 1) (by omega)

/-- `sat` brings every value into the range of a rescaled sample (R132). -/
theorem saturate_mem (s : State) (x : Int) :
    sampleLo s ≤ saturate (scwOutsign s.scw) (pOut s) x ∧ saturate (scwOutsign s.scw) (pOut s) x ≤ sampleHi s := by
  unfold sampleLo sampleHi saturate
  cases scwOutsign s.scw
  · exact clampu_mem x (pOut s)
  · exact clamps_mem x (pOut s)

theorem ditherFunction_mem (s : State) (ch : Fin 4) (i : Nat) (v : Int) :
    sampleLo s ≤ ditherFunction (scwOutsign s.scw) s ch i v ∧
      ditherFunction (scwOutsign s.scw) s ch i v ≤ sampleHi s := by
  by_cases h : pOut s + 2 ≤ pInt s
  · rw [ditherFunction_of_shift h]; exact saturate_mem s _
  · rw [ditherFunction_of_small (by omega)]; exact saturate_mem s _

end Sys2Proof.Machine
end

section
/-! SUPPORT. The invariant of a running strip: what the stages leave in the row buffers for the later ones, and that
every operation finds its rows and leaves its own (R22 to R26). -/

namespace Sys2Proof.Machine

/-! ### What a passed check says of the stages -/

theorem chanCount_full {s : State} (h : scwSrc422 s.scw = false) (ch : Fin 4) : chanCount s ch = coefCount s := by
  simp [chanCount, h]

/-- A differential source has full-rate chroma and unsigned samples (R94, R102). -/
theorem Checked.differential {s : State} (h : Checked s) (src : scwSrc s.scw = true) :
    scwSrc422 s.scw = false ∧ sampleLo s = 0 ∧ sampleHi s = 2 ^ pOut s - 1 := by
  have unsigned : scwOutsign s.scw = false := by
    by_contra signed
    have := (h.signed (by simpa using signed)).2.1
    simp [src] at this
  exact ⟨h.shapes.1 src, by simp [sampleLo, unsigned], by simp [sampleHi, unsigned]⟩

/-! ### What the slots leave -/

/-- What the operation of a slot leaves in the row buffers for the later stages: RR, WR, CR, CR again, AR, SR (R22 to
R26); slots 6 and 7 leave nothing there. -/
def RowsLeft (s : State) (k : BitVec 3) : Prop :=
  match k with
  | 0 => ∀ ch, inUse s ch = true → RowIn (s.rr.get ch) (2 * chanCount s ch) (-32768) 32767
  | 1 => ∀ ch, inUse s ch = true → RowIn (s.wr.get ch) (2 * chanCount s ch) (sampleLo s) (sampleHi s)
  | 2 | 3 => RowIn s.cr.k0 (rowWidth s) (sampleLo s) (sampleHi s) ∧
      RowIn s.cr.k1 (2 * chanCount s 1) (sampleLo s) (sampleHi s) ∧
      RowIn s.cr.k2 (2 * chanCount s 1) (sampleLo s) (sampleHi s)
  | 4 => RowIn s.ar (rowWidth s) 0 (2 ^ pOut s - 1)
  | 5 => RowIn s.sr.k1 (coefCount s) (sampleLo s) (sampleHi s) ∧
      RowIn s.sr.k2 (coefCount s) (sampleLo s) (sampleHi s)
  | 6 | 7 => True

/-- Every filled slot before `k` has left its rows. -/
def RowsBefore (s : State) (k : BitVec 3) : Prop := ∀ j, j < k → slotFilled s.scw j = true → RowsLeft s j

theorem eachSlot (j : BitVec 3) : j = 0 ∨ j = 1 ∨ j = 2 ∨ j = 3 ∨ j = 4 ∨ j = 5 ∨ j = 6 ∨ j = 7 := by
  revert j; decide

/-- The rows of the invariant are those that the filled slots before STAGE leave. -/
theorem rowsReady_iff {s : State} (h : Checked s) : RowsReady s ↔ RowsBefore s s.stage := by
  have filled0 := slotFilled_zero h.synmode
  constructor
  · rintro ⟨hr, hw, hc, ha, hs⟩ j hj filled
    have before : j.toNat < s.stage.toNat := hj
    obtain rfl | rfl | rfl | rfl | rfl | rfl | rfl | rfl := eachSlot j
    · exact hr before
    · exact hw before
    · exact hc before
    · exact hc (Nat.lt_of_succ_lt before)
    · exact ha before (by rwa [slotFilled_four] at filled)
    · exact hs before filled
    · trivial
    · trivial
  · intro h
    exact ⟨fun b => h 0 b filled0, fun b => h 1 b (slotFilled_one _), fun b => h 2 b (slotFilled_two _),
      fun b alpha => h 4 b (by rwa [slotFilled_four]), fun b filled => h 5 b filled⟩

end Sys2Proof.Machine
end

section
/-! SUPPORT. The rows an operation leaves, and that the walk over the slots keeps them ready (R22 to R26, R226). -/

namespace Sys2Proof.Machine

/-! ### The operation of a slot leaves its rows -/

theorem synthesize_leaves {finish : Int → Int} (fits : Fits16 finish) {s u : State}
    (h : synthesize finish s = .next u) (hu : u.phase ≠ .fault) : RowsLeft u 0 := by
  obtain ⟨-, ⟨-, rfl⟩ | ⟨-, rfl⟩⟩ := synthesize_next h
  · intro ch (used : inUse s ch = true)
    show RowIn ((Quad.build _).get ch) _ _ _
    rw [Quad.get_build, if_pos used]
    exact rowIn_rowFrom fun i _ => fits _
  · exact absurd rfl hu

/-- The rows that an operation of slot 1 leaves, when its function keeps to the range of a rescaled sample. -/
theorem rescaled_leaves (s : State) {f : Fin 4 → Nat → Int → Int}
    (range : ∀ ch i v, sampleLo s ≤ f ch i v ∧ f ch i v ≤ sampleHi s) (n : Nat) :
    RowsLeft { s with
      wr := .build fun ch => if inUse s ch then rescaledRow f s ch else s.wr.get ch, freeCount := n } 1 := by
  intro ch (used : inUse s ch = true)
  show RowIn ((Quad.build _).get ch) _ _ _
  rw [Quad.get_build, if_pos used]
  exact rowIn_rowFrom fun i _ => range ch i _

theorem execCtPass_leaves {s u : State} (wr : RowsLeft s 1) (h : execCtPass s = .next u) : RowsLeft u 2 := by
  obtain ⟨-, -, -, rfl⟩ := execCtPass_next h
  have row0 := wr 0 (inUse_low s (by decide))
  rw [chanCount_zero] at row0
  have row2 := wr 2 (inUse_low s (by decide))
  rw [chanCount_two] at row2
  refine ⟨?_, rowIn_copyRow (wr 1 (inUse_low s (by decide))), ?_⟩
  · rw [chanCount_zero]; exact rowIn_copyRow row0
  · rw [chanCount_two]; exact rowIn_copyRow row2

/-- Three full-rate unsigned rows are what slots 2 and 3 leave of a differential source. -/
theorem components_left {s : State} (hc : Checked s) (src : scwSrc s.scw = true) {k0 k1 k2 : Row}
    (h0 : RowIn k0 (rowWidth s) 0 (2 ^ pOut s - 1)) (h1 : RowIn k1 (rowWidth s) 0 (2 ^ pOut s - 1))
    (h2 : RowIn k2 (rowWidth s) 0 (2 ^ pOut s - 1)) : RowsLeft { s with cr := ⟨k0, k1, k2⟩ } 2 := by
  obtain ⟨full, lo, hi⟩ := hc.differential src
  show RowIn k0 (rowWidth s) (sampleLo s) (sampleHi s) ∧ RowIn k1 (2 * chanCount s 1) (sampleLo s) (sampleHi s) ∧
    RowIn k2 (2 * chanCount s 1) (sampleLo s) (sampleHi s)
  rw [lo, hi, chanCount_full full]
  exact ⟨h0, h1, h2⟩

theorem execCtDiff_leaves {s u : State} (hc : Checked s) (src : scwSrc s.scw = true) (wr : RowsLeft s 1)
    (h : execCtDiff s = .next u) : RowsLeft u 2 := by
  obtain ⟨-, -, -, rfl⟩ := execCtDiff_next h
  obtain ⟨-, lo, hi⟩ := hc.differential src
  have green := wr 0 (inUse_low s (by decide))
  rw [chanCount_zero, lo, hi] at green
  exact components_left hc src (rowIn_rowFrom fun i _ => clampu_mem _ _) (rowIn_copyRow green)
    (rowIn_rowFrom fun i _ => clampu_mem _ _)

theorem applyMatrix_leaves {m : Config.Matrix} {s u : State} (hc : Checked s) (src : scwSrc s.scw = true)
    (h : applyMatrix m s = .next u) : RowsLeft u 3 := by
  obtain ⟨-, rfl⟩ := applyMatrix_next h
  exact components_left hc src (rowIn_rowFrom fun i _ => clampu_mem _ _) (rowIn_rowFrom fun i _ => clampu_mem _ _)
    (rowIn_rowFrom fun i _ => clampu_mem _ _)

theorem execCtAlpha_leaves {s u : State} (h : execCtAlpha s = .next u) : RowsLeft u 4 := by
  obtain ⟨-, rfl⟩ := execCtAlpha_next h
  exact rowIn_rowFrom fun i _ => clampu_mem _ _

/-- An SS operation leaves SR when its averages keep to the range of the row they are taken from. -/
theorem subsample_leaves {f : Row → Nat → Int} {s u : State} (full : scwSrc422 s.scw = false) (cr : RowsLeft s 2)
    (average : ∀ row, RowIn row (2 * coefCount s) (sampleLo s) (sampleHi s) →
      RowIn (rowFrom (coefCount s) (f row)) (coefCount s) (sampleLo s) (sampleHi s))
    (h : subsample f s = .next u) : RowsLeft u 5 := by
  obtain ⟨-, -, rfl⟩ := subsample_next h
  obtain ⟨-, row1, row2⟩ := cr
  rw [chanCount_full full] at row1 row2
  exact ⟨average _ row1, average _ row2⟩

/-- Every operation a checked strip control word fills slot `k` with leaves the slot's rows, when the slots before have
left theirs. -/
theorem exec_leaves {i : Instr} {k : BitVec 3} {s u : State} (hc : Checked s) (hd : decode (.slot k) s.scw = .ok i)
    (before : RowsBefore s k) (h : exec i s = .next u) (hu : u.phase ≠ .fault) : RowsLeft u k := by
  have hk := siteOf_decode hd
  have fits := decode_fields hd
  cases i with
  | nop | start | reset => cases hk
  | synStd rounded => cases hk; exact synthesize_leaves (finishStd_fits rounded) h hu
  | synLim rounded limbits => cases hk; exact synthesize_leaves (finishLim_fits rounded limbits) h hu
  | synDsc shift => cases hk; exact synthesize_leaves (finishDsc_fits shift) h hu
  | rsc _ =>
    cases hk; cases fits
    rw [(rescaleRows_next h).2]
    exact rescaled_leaves s (fun _ _ v => saturate_mem s _) s.freeCount
  | rscD _ =>
    cases hk; cases fits
    rw [(execRscD_next h).2]
    exact rescaled_leaves s (ditherFunction_mem s) u.freeCount
  | ctPass => cases hk; exact execCtPass_leaves (before 1 (by decide) (slotFilled_one _)) h
  | ctDiff => cases hk; exact execCtDiff_leaves hc fits (before 1 (by decide) (slotFilled_one _)) h
  | ctMtxCg601 | ctMtxVs601 | ctMtxCg709 | ctMtxVs709 => cases hk; exact applyMatrix_leaves hc fits h
  | ctAlpha => cases hk; exact execCtAlpha_leaves h
  | ssPair =>
    cases hk
    exact subsample_leaves fits (before 2 (by decide) (slotFilled_two _)) (fun _ => rowIn_pairSample) h
  | ssCw =>
    cases hk
    exact subsample_leaves fits (before 2 (by decide) (slotFilled_two _)) (fun _ => rowIn_centreSample) h
  | _ => cases hk; trivial

/-- The rows of the slots before `k` stay through an operation of slot `k`; CR, which slot 3 writes again, counts as
slot 3's own. -/
theorem SlotFrame.rowsLeft {k j : BitVec 3} {s u : State} (frame : SlotFrame k s u) (hj : j < k)
    (again : ¬(j = 2 ∧ k = 3)) : RowsLeft u j ↔ RowsLeft s j := by
  obtain ⟨shape, rr, wr, cr, ar, sr, -⟩ := frame
  have other : k ≠ j := (BitVec.ne_of_lt hj).symm
  rw [shape]
  obtain rfl | rfl | rfl | rfl | rfl | rfl | rfl | rfl := eachSlot j
  · rw [rr other]; rfl
  · rw [wr other]; rfl
  · rw [cr other fun h => again ⟨rfl, h⟩]; rfl
  · rw [cr (by rintro rfl; exact absurd hj (by decide)) other]; rfl
  · rw [ar other]; rfl
  · rw [sr other]; rfl
  · rfl
  · rfl

/-! ### The walk -/

/-- An operation of slot `k` that ends in its frame makes the rows of the filled slots up to the next one. -/
theorem rowsBefore_nextSlot {k : BitVec 3} {s u : State} (hk : k ≠ 7) (before : RowsBefore s k)
    (frame : SlotFrame k s u) (left : RowsLeft u k) : RowsBefore u (nextSlot s.scw k) := by
  have scw : u.scw = s.scw := by rw [frame.shape]
  obtain ⟨-, -, least⟩ := nextSlot_spec s.scw hk
  intro j hj filled
  rw [scw] at filled
  by_cases own : j = k ∨ (j = 2 ∧ k = 3)
  · obtain rfl | ⟨rfl, rfl⟩ := own
    · exact left
    · exact left
  · rw [not_or] at own
    have earlier : j < k := by
      by_contra later
      have := least j (by bv_omega) filled
      bv_omega
    exact (frame.rowsLeft earlier own.2).2 (before j earlier filled)

end Sys2Proof.Machine
end

section
/-! SUPPORT. Everything a step can do, said once: which action from outside or which stage operation it was, and what it
has changed (R212, R217, R226, R247). -/

namespace Sys2Proof.Machine

/-! ### A stage operation by its slot -/

/-- Everything a step of the orchestrator can do while BUSY: the row advance, a stage operation that goes on or raises
CV_BUS, or a move past an empty slot (R226, R246). -/
inductive StageCase (s t : State) : Prop
  | advance (last : s.stage = 7) (after : execAdv s = .next t)
  | operation (i : Instr) (u : State) (decoded : decode (.slot s.stage) s.scw = .ok i) (early : s.stage ≠ 7)
      (ran : exec i s = .next u) (frame : SlotFrame s.stage s u)
      (after : t = { u with stage := nextSlot s.scw s.stage })
  | busError (slot : s.stage = 0 ∨ s.stage = 6) (u : State) (ch buf : BitVec 2) (frame : SlotFrame s.stage s u)
      (after : t = raiseFault .cvBus ch buf u)
  | skip (empty : slotFilled s.scw s.stage = false) (after : t = { s with stage := nextSlot s.scw s.stage })

theorem advanceStage_of_fault (i : Instr) {t : State} (h : t.phase = .fault) : advanceStage i t = t := by
  simp [advanceStage, h]

/-- After an operation that is not ADV and leaves the phase BUSY, STAGE is the next filled slot (R226). -/
theorem advanceStage_of_busy {i : Instr} (hi : i ≠ .adv) {t : State} (h : t.phase = .busy) :
    advanceStage i t = { t with stage := nextSlot t.scw t.stage } := by
  simp [advanceStage, hi, h]

theorem stageStep_cases {s t : State} (busy : s.phase = .busy) (h : stageStep s = .next t) : StageCase s t := by
  obtain ⟨i, u, hd, hu, rfl⟩ | ⟨empty, rfl⟩ := stageStep_next h
  · by_cases hi : i = .adv
    · subst hi
      exact .advance (decode_adv_slot hd) hu
    · have early : s.stage ≠ 7 := by
        intro last
        rw [last, decode_slot7] at hd
        exact hi (Except.ok.inj hd).symm
      obtain frame | ⟨slot, v, ch, buf, frame, rfl⟩ := stage_end (siteOf_decode hd) hi hu
      · refine .operation i u hd early hu frame ?_
        have phase : u.phase = .busy := by rw [frame.shape]; exact busy
        have scw : u.scw = s.scw := by rw [frame.shape]
        have stage : u.stage = s.stage := by rw [frame.shape]
        rw [advanceStage_of_busy hi phase, scw, stage]
      · exact .busError slot v ch buf frame (advanceStage_of_fault i rfl)
  · exact .skip empty rfl

/-! ### One step -/

theorem regAt_eq_cmd {offset : BitVec 8} (h : regAt offset = some .cmd) : offset = 0x04 := by
  revert offset; decide

/-- A write that the block ignores with WRERR: of a descriptor register while BUSY, or of a START or an invalid command
word while BUSY or FAULT (R53, R212). -/
def IgnoredWrite (s : State) (offset : BitVec 8) (w : Word) : Prop :=
  (s.phase = .busy ∧ ∃ r, regAt offset = some r ∧ isDescriptor r = true) ∨
    (offset = 0x04 ∧ (s.phase = .busy ∨ s.phase = .fault) ∧ (w = 0x00000001 ∨ 3 ≤ w.toNat))

/-- Everything a step can do when it ends in a next state; `rest` is the queue it leaves. -/
inductive StepCase (s t : State) (rest : List Input) : Prop
  /-- An action from outside, or an idle orchestrator: no part of the block changes but IRQEN. -/
  | quiet (after : t = { s with
      irqen := t.irqen, coef := t.coef, out := t.out, bus := t.bus, inputs := t.inputs, rdata := t.rdata,
      overwritten := t.overwritten, hostOut := t.hostOut, freeCount := t.freeCount })
  | ignored (offset : BitVec 8) (w : Word) (head : s.inputs.head? = some (.write .word offset w))
      (why : IgnoredWrite s offset w) (after : t = setWrerr { s with inputs := rest })
  | stored (r : Reg) (w : Word) (descriptor : isDescriptor r = true) (settled : s.phase ≠ .busy)
      (after : t = storeDescriptor r w { s with inputs := rest })
  | reset (head : s.inputs.head? = some .hardReset ∨ s.inputs.head? = some (.write .word 0x04 0x00000002))
      (after : t = resetRegisters (abandonRow { s with inputs := rest }))
  | began (head : s.inputs.head? = some (.write .word 0x04 0x00000001)) (settled : s.phase = .idle ∨ s.phase = .done)
      (checked : firstViolation s = none) (after : t = beginStrip { s with inputs := rest })
  | rejected (head : s.inputs.head? = some (.write .word 0x04 0x00000001))
      (settled : s.phase = .idle ∨ s.phase = .done) (v : Violation) (failed : firstViolation s = some v)
      (after : t = raiseFault v.code v.ch v.buf { s with inputs := rest })
  | invalid (w : Word) (head : s.inputs.head? = some (.write .word 0x04 w)) (bad : 3 ≤ w.toNat)
      (settled : s.phase = .idle ∨ s.phase = .done) (after : t = raiseFault .cvCmd 0 0 { s with inputs := rest })
  | stage (busy : s.phase = .busy) (ran : StageCase { s with inputs := rest } t)

theorem not_acceptsStart_iff (p : Phase) : acceptsStart p = false ↔ p = .busy ∨ p = .fault := by
  cases p <;> decide

/-- What a command word written does (R212). -/
theorem stepCase_of_command {s t : State} {rest : List Input} {w : Word}
    (head : s.inputs.head? = some (.write .word 0x04 w)) (h : writeCommand w { s with inputs := rest } = .next t) :
    StepCase s t rest := by
  obtain ⟨-, rfl⟩ | ⟨rfl, h⟩ | ⟨rfl, rfl⟩ | ⟨bad, rfl⟩ := writeCommand_next h
  · exact .quiet rfl
  · obtain ⟨settled, checked, rfl⟩ | ⟨v, settled, failed, rfl⟩ | ⟨running, rfl⟩ := execStart_next h
    · exact .began head ((acceptsStart_iff _).1 settled) checked rfl
    · exact .rejected head ((acceptsStart_iff _).1 settled) v failed rfl
    · exact .ignored 0x04 1 head (.inr ⟨rfl, (not_acceptsStart_iff _).1 running, .inl rfl⟩) rfl
  · exact .reset (.inr head) rfl
  · unfold invalidCommand
    split
    · rename_i settled
      exact .invalid w head bad ((acceptsStart_iff _).1 settled) rfl
    · rename_i running
      have running := (not_acceptsStart_iff _).1 (Bool.eq_false_iff.2 running)
      exact .ignored 0x04 w head (.inr ⟨rfl, running, .inr bad⟩) rfl

/-- What a register write does (R31, R53). -/
theorem stepCase_of_write {s t : State} {rest : List Input} {width : Width} {offset : BitVec 8} {w : Word}
    (head : s.inputs.head? = some (.write width offset w))
    (h : portWrite width offset w { s with inputs := rest } = .next t) : StepCase s t rest := by
  obtain ⟨rfl, rfl | ⟨-, rfl⟩ | ⟨cmd, h⟩ | ⟨r, hr, descriptor, ⟨busy, rfl⟩ | ⟨settled, rfl⟩⟩⟩ := portWrite_next h
  · exact .quiet rfl
  · exact .quiet rfl
  · cases regAt_eq_cmd cmd
    exact stepCase_of_command head h
  · exact .ignored offset w head (.inl ⟨busy, r, hr, descriptor⟩) rfl
  · exact .stored r w descriptor settled rfl

/-- What a step of the orchestrator does (R226, R258). -/
theorem stepCase_of_orchestrate {s t : State} {rest : List Input}
    (h : orchestrate { s with inputs := rest } = .next t) : StepCase s t rest := by
  obtain ⟨busy, h⟩ | ⟨-, rfl⟩ := orchestrate_next h
  · exact .stage busy (stageStep_cases busy h)
  · exact .quiet rfl

theorem step_cases {s t : State} (h : step s = .next t) : ∃ rest, StepCase s t rest := by
  obtain ⟨-, h⟩ | ⟨e, rest, hin, h⟩ := step_next h
  · exact ⟨s.inputs, stepCase_of_orchestrate h⟩
  have head : s.inputs.head? = some e := by rw [hin]; rfl
  cases e with
  | run => exact ⟨rest, stepCase_of_orchestrate h⟩
  | wait =>
    obtain ⟨-, rfl⟩ | h := h
    · exact ⟨rest, .quiet rfl⟩
    · exact ⟨s.inputs, stepCase_of_orchestrate h⟩
  | read _ _ => cases h; exact ⟨rest, .quiet rfl⟩
  | write _ _ _ => exact ⟨rest, stepCase_of_write head h⟩
  | hardReset => exact ⟨rest, .reset (.inl head) h⟩
  | coefWrite _ _ => cases h; exact ⟨rest, .quiet rfl⟩
  | outWrite _ _ =>
    obtain ⟨b, after, -⟩ := h
    exact ⟨rest, .quiet (by rw [after])⟩
  | busAnswers _ _ => cases h; exact ⟨rest, .quiet rfl⟩

end Sys2Proof.Machine
end

section
/-! SUPPORT. The statement that every step keeps the invariant of a running strip, case by case of what a step can do. -/

namespace Sys2Proof.Machine

/-! ### The invariant's parts through the steps of a strip -/

/-- ROW one further on, while it stays below HEIGHT: a pointer is one pitch further on (R66, R222). -/
theorem row_succ_mul {row : BitVec 16} (h : row < row + 1) (pitch : Word) :
    (row + 1).setWidth 32 * pitch = row.setWidth 32 * pitch + pitch := by
  have wide : (row + 1).setWidth 32 = row.setWidth 32 + (1 : Word) := by bv_omega
  rw [wide, BitVec.add_mul]
  exact congrArg _ (BitVec.one_mul pitch)

theorem pointersPlaced_beginStrip (s : State) : PointersPlaced (beginStrip s) := by
  refine ⟨?_, fun ch => ?_⟩
  · simp
  · simp

theorem pointersPlaced_advance {s t : State} (h : PointersPlaced s) (next : s.row < s.row + 1)
    (after : execAdv s = .next t) : PointersPlaced t := by
  obtain ⟨out, channels⟩ := h
  cases after
  refine ⟨?_, fun ch => ?_⟩
  · show s.outPtr + s.outPitch = s.outBase + (s.row + 1).setWidth 32 * s.outPitch
    rw [out, row_succ_mul next, BitVec.add_assoc]
  · obtain ⟨lp, hp⟩ := channels ch
    show (advancePointers s s.lpPtr s.lpPitch).get ch =
        (if inUse s ch then s.lpBase.get ch + (s.row + 1).setWidth 32 * s.lpPitch.get ch else s.lpBase.get ch) ∧
      (advancePointers s s.hpPtr s.hpPitch).get ch =
        (if inUse s ch then s.hpBase.get ch + (s.row + 1).setWidth 32 * s.hpPitch.get ch else s.hpBase.get ch)
    rw [advancePointers_get, advancePointers_get, lp, hp, row_succ_mul next, row_succ_mul next]
    cases inUse s ch
    · exact ⟨rfl, rfl⟩
    · exact ⟨BitVec.add_assoc .., BitVec.add_assoc ..⟩

/-- At STAGE 0 nothing has to stand in the row buffers. -/
theorem rowsReady_of_first {s : State} (h : s.stage = 0) : RowsReady s := by
  unfold RowsReady
  rw [h]
  exact ⟨fun b => absurd b (by decide), fun b => absurd b (by decide), fun b => absurd b (by decide),
    fun b => absurd b (by decide), fun b => absurd b (by decide)⟩

theorem stripInv_of_phase {s : State} (h : s.phase ≠ .busy) : StripInv s := fun busy => absurd busy h

/-- An accepted START enters the invariant (R213, R214). -/
theorem stripInv_beginStrip {s : State} (checked : firstViolation s = none) : StripInv (beginStrip s) := by
  intro busy
  have some_row : height s ≠ 0 := by
    intro none_left
    simp [none_left] at busy
  exact ⟨checked, show (0 : BitVec 16) < height s by bv_omega, slotFilled_zero (checked_of_none checked).synmode,
    pointersPlaced_beginStrip s, rowsReady_of_first rfl⟩

/-- The row advance keeps the invariant: below HEIGHT the next row begins at STAGE 0, else the strip is done (R222). -/
theorem stripInv_advance {s t : State} (busy : s.phase = .busy) (h : StripInv s) (after : execAdv s = .next t) :
    StripInv t := by
  obtain ⟨checked, below, -, pointers, -⟩ := h busy
  intro busy'
  have more : s.row + 1 ≠ height s := by
    intro last
    cases after
    exact absurd (busy'.symm.trans (if_pos last)) (by decide)
  have next : s.row < s.row + 1 ∧ s.row + 1 < height s := by constructor <;> bv_omega
  have placed := pointersPlaced_advance pointers next.1 after
  cases after
  exact ⟨checked, next.2, slotFilled_zero (checked_of_none checked).synmode, placed, rowsReady_of_first rfl⟩

/-- A stage operation that goes on keeps the invariant: STAGE moves to the next filled slot, and the rows of the slots
up to it are ready (R22 to R26, R226). -/
theorem stripInv_operation {s u : State} {i : Instr} (busy : s.phase = .busy) (h : StripInv s)
    (decoded : decode (.slot s.stage) s.scw = .ok i) (early : s.stage ≠ 7) (ran : exec i s = .next u)
    (frame : SlotFrame s.stage s u) : StripInv { u with stage := nextSlot s.scw s.stage } := by
  obtain ⟨checked, below, -, pointers, ready⟩ := h busy
  have hc := checked_of_none checked
  have going : u.phase ≠ .fault := by
    have phase : u.phase = s.phase := by rw [frame.shape]
    rw [phase, busy]; decide
  have before := (rowsReady_iff hc).1 ready
  have rows := rowsBefore_nextSlot early before frame (exec_leaves hc decoded before ran going)
  have checked' : firstViolation { u with stage := nextSlot s.scw s.stage } = none := by rw [frame.shape]; exact checked
  intro _
  refine ⟨checked', ?_, ?_, ?_, (rowsReady_iff (checked_of_none checked')).2 rows⟩
  · rw [frame.shape]; exact below
  · rw [frame.shape]; exact (nextSlot_spec s.scw early).2.1
  · rw [frame.shape]; exact pointers

theorem stripInv_stage {s t : State} (busy : s.phase = .busy) (h : StripInv s) (ran : StageCase s t) :
    StripInv t := by
  cases ran with
  | advance _ after => exact stripInv_advance busy h after
  | operation i u decoded early ran frame after => rw [after]; exact stripInv_operation busy h decoded early ran frame
  | busError _ u ch buf _ after => rw [after]; exact stripInv_of_phase (by simp)
  | skip empty _ =>
    obtain ⟨-, -, filled, -⟩ := h busy
    simp [filled] at empty

/-- Settles O58: what the host does leaves the invariant's parts alone or the phase not BUSY; START enters it; and the
stage operations keep it. -/
theorem stepKeepsStripInvariant : Obligations.StepKeepsStripInvariant := by
  intro s t inv h
  obtain ⟨rest, c⟩ := step_cases h
  cases c with
  | quiet after => rw [after]; exact inv
  | ignored _ _ _ _ after => rw [after]; exact inv
  | stored r w _ settled after => rw [after]; exact stripInv_of_phase (by simpa using settled)
  | reset _ after => rw [after]; exact stripInv_of_phase (by simp)
  | began _ _ checked after => rw [after]; exact stripInv_beginStrip checked
  | rejected _ _ v _ after => rw [after]; exact stripInv_of_phase (by simp)
  | invalid _ _ _ _ after => rw [after]; exact stripInv_of_phase (by simp)
  | stage busy ran => exact stripInv_stage (s := { s with inputs := rest }) busy inv ran

/-- Settles O57: memories with nothing listed are canonical, and after reset no strip runs. -/
theorem resetMeetsTheInvariants : Obligations.ResetMeetsTheInvariants :=
  ⟨⟨Memory.wf_nil, Memory.wf_nil⟩, stripInv_of_phase (by decide)⟩

end Sys2Proof.Machine
end

section
/-! SUPPORT. Which rows each operation reads (R130, R148 to R175), that it completes when they hold their elements and
stops the model when they do not (R26), and that the invariant of a running strip provides them. -/

namespace Sys2Proof.Machine

/-! ### Operations that stand behind a check of their rows -/

/-- The outcome is a next state when the rows hold their elements, and else the model's fault (R26). -/
def Gated (held : Prop) (o : Outcome) : Prop :=
  (held → ∃ t, o = .next t) ∧ (¬held → o = .fault .unwrittenElement)

theorem gated_ite {check : Bool} {held : Prop} (h : check = true ↔ held) (t : State) :
    Gated held (if check then .next t else .fault .unwrittenElement) := by
  rw [← h]
  exact ⟨fun ok => ⟨t, if_pos ok⟩, fun no => if_neg no⟩

/-- A PK operation whose rows hold their elements completes, with or without CV_BUS (R176). -/
theorem gated_storeRow {check : Bool} {held : Prop} (h : check = true ↔ held) (bytes : List Byte) (s : State) :
    Gated held (storeRow (needRows check bytes) s) := by
  rw [← h]
  constructor
  · rintro rfl
    rw [needRows_true, storeRow]
    split <;> exact ⟨_, rfl⟩
  · intro no
    rw [Bool.not_eq_true] at no
    rw [no]
    rfl

theorem rows422Written_iff (src422 : Bool) (s : State) : rows422Written src422 s = true ↔ Rows422Held src422 s := by
  simp [rows422Written, Rows422Held, and_assoc]

theorem rows444Written_iff (s : State) : rows444Written s = true ↔ ComponentsHeld s (rowWidth s) := by
  simp [rows444Written, ComponentsHeld, and_assoc]

theorem alphaWritten_iff (alpha : Bool) (s : State) : alphaWritten alpha s = true ↔ AlphaHeld alpha s := by
  cases alpha <;> simp [alphaWritten, AlphaHeld]

theorem rowsAlphaWritten_iff (alpha : Bool) (s : State) :
    (rows444Written s && alphaWritten alpha s) = true ↔ ComponentsHeld s (rowWidth s) ∧ AlphaHeld alpha s := by
  rw [Bool.and_eq_true, rows444Written_iff, alphaWritten_iff]

/-- The rows that an operation reads hold their elements; the operations of CMD and of slots 0 and 7 read no row. -/
def RowsRead (s : State) : Instr → Prop
  | .rsc _ | .rscD _ => RowsHeld s s.rr
  | .ctPass =>
    2 * chanCount s 0 ≤ s.wr.c0.length ∧ 2 * chanCount s 1 ≤ s.wr.c1.length ∧ 2 * chanCount s 2 ≤ s.wr.c2.length
  | .ctDiff => rowWidth s ≤ s.wr.c0.length ∧ rowWidth s ≤ s.wr.c1.length ∧ rowWidth s ≤ s.wr.c2.length
  | .ctAlpha => rowWidth s ≤ s.wr.c3.length
  | .ctMtxCg601 | .ctMtxVs601 | .ctMtxCg709 | .ctMtxVs709 => ComponentsHeld s (rowWidth s)
  | .pkRg30 | .pkAr10 | .pkAb10 | .pkR210 | .pkDpx0 => ComponentsHeld s (rowWidth s)
  | .ssPair | .ssCw => rowWidth s ≤ s.cr.k1.length ∧ rowWidth s ≤ s.cr.k2.length
  | .pkYuyv src422 | .pkUyvy src422 | .pkV210 src422 => Rows422Held src422 s
  | .pkV408 alpha | .pkAyuv alpha | .pkB64a alpha => ComponentsHeld s (rowWidth s) ∧ AlphaHeld alpha s
  | .pkP16 alpha =>
    rowWidth s ≤ s.cr.k0.length ∧ 2 * chanCount s 1 ≤ s.cr.k1.length ∧ 2 * chanCount s 1 ≤ s.cr.k2.length ∧
      AlphaHeld alpha s
  | .nop | .start | .reset | .synStd _ | .synLim _ _ | .synDsc _ | .adv => True

/-- The operations of slots 1 to 6 complete when their rows hold their elements, and only then. -/
theorem exec_gated {i : Instr} {k : BitVec 3} (hk : siteOf i = .slot k) (first : k ≠ 0) (last : k ≠ 7) (s : State) :
    Gated (RowsRead s i) (exec i s) := by
  cases i with
  | nop | start | reset => cases hk
  | synStd _ | synLim _ _ | synDsc _ => cases hk; exact absurd rfl first
  | adv => cases hk; exact absurd rfl last
  | rsc _ => exact ⟨fun h => ⟨_, (rescaleRows_eq _ s).1 h⟩, (rescaleRows_eq _ s).2⟩
  | rscD _ => exact ⟨execRscD_held _, execRscD_unheld _⟩
  | ctPass | ctDiff => exact gated_ite (by simp [RowsRead, and_assoc]) _
  | ctAlpha => exact gated_ite (written_eq _ _) _
  | ctMtxCg601 | ctMtxVs601 | ctMtxCg709 | ctMtxVs709 => exact gated_ite (rows444Written_iff s) _
  | ssPair | ssCw => exact gated_ite (by simp [RowsRead]) _
  | pkYuyv src422 | pkUyvy src422 | pkV210 src422 => exact gated_storeRow (rows422Written_iff src422 s) _ s
  | pkV408 alpha | pkAyuv alpha | pkB64a alpha => exact gated_storeRow (rowsAlphaWritten_iff alpha s) _ s
  | pkRg30 | pkAr10 | pkAb10 | pkR210 | pkDpx0 => exact gated_storeRow (rows444Written_iff s) _ s
  | pkP16 alpha => exact gated_storeRow (by simp [RowsRead, alphaWritten_iff, and_assoc]) _ s

theorem exec_unwritten {i : Instr} {k : BitVec 3} (hk : siteOf i = .slot k) (first : k ≠ 0 := by decide)
    (last : k ≠ 7 := by decide) {s : State} (h : ¬RowsRead s i) : exec i s = .fault .unwrittenElement :=
  (exec_gated hk first last s).2 h

/-- Settles O51: each operation stands behind the check of the rows its rule reads. -/
theorem unwrittenElementsStopTheModel : Obligations.UnwrittenElementsStopTheModel := by
  intro s
  refine ⟨fun h b => ⟨exec_unwritten rfl (h := h), exec_unwritten rfl (h := h)⟩, fun h => exec_unwritten rfl (h := h),
    fun h => exec_unwritten rfl (h := h), fun h => exec_unwritten rfl (h := not_le.2 h), fun h i hi => ?_,
    fun h => ⟨exec_unwritten rfl (h := h), exec_unwritten rfl (h := h)⟩, fun b h i hi => ?_, fun b h i hi => ?_,
    fun b h => exec_unwritten rfl (h := h)⟩
  · simp only [List.mem_cons, List.not_mem_nil, or_false] at hi
    obtain rfl | rfl | rfl | rfl | rfl | rfl | rfl | rfl | rfl := hi <;> exact exec_unwritten rfl (h := h)
  · simp only [List.mem_cons, List.not_mem_nil, or_false] at hi
    obtain rfl | rfl | rfl := hi <;> exact exec_unwritten rfl (h := h)
  · simp only [List.mem_cons, List.not_mem_nil, or_false] at hi
    obtain rfl | rfl | rfl := hi <;> exact exec_unwritten rfl (h := h)

/-! ### The rows of a running strip -/

theorem rowsHeld_of_left {s : State} (rr : RowsLeft s 0) : RowsHeld s s.rr := fun ch used => (rr ch used).1

/-- With full-rate chroma, what slots 2 and 3 leave are three full rows. -/
theorem componentsHeld_of_left {s : State} (full : scwSrc422 s.scw = false) (cr : RowsLeft s 2) :
    ComponentsHeld s (rowWidth s) := by
  obtain ⟨row0, row1, row2⟩ := cr
  rw [chanCount_full full] at row1 row2
  exact ⟨row0.1, row1.1, row2.1⟩

theorem alphaHeld_of_before {s : State} {k : BitVec 3} (before : RowsBefore s k) (late : 4 < k) :
    AlphaHeld (scwAlpha s.scw) s := by
  intro alpha
  have ar : RowsLeft s 4 := before 4 late (by rwa [slotFilled_four])
  exact ar.1

/-- The 4:2:2 packers find half-rate chroma: in CR of a half-rate source, else in SR, which slot 5 has left (R175). -/
theorem rows422Held_of_before {s : State} (hc : Checked s) (is422 : scwIs422 s.scw = true) (before : RowsBefore s 6) :
    Rows422Held (scwSrc422 s.scw) s := by
  obtain ⟨row0, row1, row2⟩ : RowsLeft s 2 := before 2 (by decide) (slotFilled_two _)
  cases half : scwSrc422 s.scw with
  | false =>
    obtain ⟨sr1, sr2⟩ : RowsLeft s 5 := before 5 (by decide) (slotFilled_five is422 half)
    exact ⟨row0.1, sr1.1, sr2.1⟩
  | true =>
    have even := hc.even half
    have count : chanCount s 1 = coefCount s / 2 := by simp [chanCount, half]
    have enough : coefCount s ≤ 2 * chanCount s 1 := by omega
    exact ⟨row0.1, enough.trans row1.1, enough.trans row2.1⟩

/-- In a running strip every operation finds its rows (R26: "No rule reads an element that no earlier operation of the
same row has written"). -/
theorem rowsRead_of_before {i : Instr} {k : BitVec 3} {s : State} (hc : Checked s)
    (hd : decode (.slot k) s.scw = .ok i) (before : RowsBefore s k) : RowsRead s i := by
  have hk := siteOf_decode hd
  have fits := decode_fields hd
  have wr (later : 1 < k) : RowsLeft s 1 := before 1 later (slotFilled_one _)
  have cr (later : 2 < k) : RowsLeft s 2 := before 2 later (slotFilled_two _)
  have differential (src : scwSrc s.scw = true) : scwSrc422 s.scw = false := hc.shapes.1 src
  have rgb (isRgb : scwIsRgb s.scw = true) : scwSrc422 s.scw = false := differential (hc.shapes.2.1 isRgb)
  cases i with
  | nop | start | reset | synStd _ | synLim _ _ | synDsc _ | adv => trivial
  | rsc _ | rscD _ => cases hk; exact rowsHeld_of_left (before 0 (by decide) (slotFilled_zero hc.synmode))
  | ctPass =>
    cases hk
    exact ⟨(wr (by decide) 0 (inUse_low s (by decide))).1, (wr (by decide) 1 (inUse_low s (by decide))).1,
      (wr (by decide) 2 (inUse_low s (by decide))).1⟩
  | ctDiff =>
    cases hk
    have row (ch : Fin 4) (low : ch.val < 3) : rowWidth s ≤ (s.wr.get ch).length := by
      have := (wr (by decide) ch (inUse_low s low)).1
      rwa [chanCount_full (differential fits)] at this
    exact ⟨row 0 (by decide), row 1 (by decide), row 2 (by decide)⟩
  | ctMtxCg601 | ctMtxVs601 | ctMtxCg709 | ctMtxVs709 =>
    cases hk; exact componentsHeld_of_left (differential fits) (cr (by decide))
  | ctAlpha =>
    cases hk
    have := (wr (by decide) 3 (by rw [inUse_three]; exact fits)).1
    rwa [chanCount_three] at this
  | ssPair | ssCw => cases hk; exact (componentsHeld_of_left fits (cr (by decide))).2
  | pkYuyv _ | pkUyvy _ | pkV210 _ =>
    cases hk
    obtain ⟨rfl, is422⟩ := fits
    exact rows422Held_of_before hc is422 before
  | pkV408 _ | pkAyuv _ =>
    cases hk
    obtain ⟨rfl, fmt⟩ := fits
    have full : scwSrc422 s.scw = false := by
      by_contra half
      have other := hc.shapes.2.2 (by simpa using half)
      simp [format, fmt] at other
    exact ⟨componentsHeld_of_left full (cr (by decide)), alphaHeld_of_before before (by decide)⟩
  | pkP16 _ =>
    cases hk; cases fits
    obtain ⟨row0, row1, row2⟩ := cr (by decide)
    exact ⟨row0.1, row1.1, row2.1, alphaHeld_of_before before (by decide)⟩
  | pkRg30 | pkAr10 | pkAb10 | pkR210 | pkDpx0 => cases hk; exact componentsHeld_of_left (rgb fits) (cr (by decide))
  | pkB64a _ =>
    cases hk
    obtain ⟨rfl, isRgb⟩ := fits
    exact ⟨componentsHeld_of_left (rgb isRgb) (cr (by decide)), alphaHeld_of_before before (by decide)⟩

/-! ### No fault of the model in a running strip -/

/-- The three SYN operations differ in their last step alone (R117 to R119). -/
theorem exec_syn {i : Instr} (hk : siteOf i = .slot 0) : ∃ finish, ∀ s, exec i s = synthesize finish s := by
  cases i with
  | synStd rounded => exact ⟨_, fun _ => rfl⟩
  | synLim rounded limbits => exact ⟨_, fun _ => rfl⟩
  | synDsc shift => exact ⟨_, fun _ => rfl⟩
  | _ => cases hk

/-- On wide channels a SYN operation completes, with or without CV_BUS (R111, R246). -/
theorem synthesize_completes (finish : Int → Int) {s : State} (h : ChannelsWide s) :
    ∃ t, synthesize finish s = .next t := by
  rw [synthesize_eq, narrowChannel_of_wide h, if_neg Bool.false_ne_true]
  split <;> exact ⟨_, rfl⟩

/-- Every operation of a running strip completes. -/
theorem exec_completes {i : Instr} {k : BitVec 3} {s : State} (hc : Checked s)
    (hd : decode (.slot k) s.scw = .ok i) (before : RowsBefore s k) : ∃ t, exec i s = .next t := by
  have hk := siteOf_decode hd
  by_cases first : k = 0
  · subst first
    obtain ⟨finish, syn⟩ := exec_syn hk
    rw [syn]
    exact synthesize_completes finish hc.wide
  by_cases last : k = 7
  · subst last
    rw [decode_slot7] at hd
    cases hd
    exact ⟨_, rfl⟩
  · exact (exec_gated hk first last s).1 (rowsRead_of_before hc hd before)

/-- The orchestrator of a state of the invariant ends every step in a next state. -/
theorem orchestrate_completes {s : State} (inv : StripInv s) : ∃ t, orchestrate s = .next t := by
  unfold orchestrate
  split
  · rename_i busy
    obtain ⟨checked, -, filled, -, ready⟩ := inv busy
    have hc := checked_of_none checked
    obtain ⟨i, hd⟩ := slotFilled_iff.1 filled
    obtain ⟨t, ht⟩ := exec_completes hc hd ((rowsReady_iff hc).1 ready)
    exact ⟨advanceStage i t, by simp only [stageStep, fetch, hd, ht]⟩
  · exact ⟨s, rfl⟩

/-- START ends in a next state, whatever the state is (R213). -/
theorem execStart_completes (s : State) : ∃ t, execStart s = .next t := by
  rw [execStart_eq]
  split
  · split <;> exact ⟨_, rfl⟩
  · exact ⟨_, rfl⟩

/-- A command word ends in a next state, whatever the state is (R212). -/
theorem writeCommand_completes (w : Word) (s : State) : ∃ t, writeCommand w s = .next t := by
  unfold writeCommand
  split
  · rename_i i hd
    have hk := siteOf_decode hd
    cases i with
    | nop => exact ⟨s, rfl⟩
    | start => exact execStart_completes s
    | reset => exact ⟨_, rfl⟩
    | _ => cases hk
  · exact ⟨_, rfl⟩

/-- A write of a descriptor register (R53). -/
theorem writeReg_descriptor {r : Reg} (h : isDescriptor r = true) (w : Word) (s : State) :
    writeReg r w s = if s.phase = .busy then .next (setWrerr s) else .next (storeDescriptor r w s) := by
  cases r with
  | id | cmd | status | fault | irqen | row | outPtr | lpPtr _ | hpPtr _ => cases h
  | _ => rfl

/-- A write of any register ends in a next state. -/
theorem writeReg_completes (r : Reg) (w : Word) (s : State) : ∃ t, writeReg r w s = .next t := by
  by_cases h : isDescriptor r = true
  · rw [writeReg_descriptor h]
    split <;> exact ⟨_, rfl⟩
  · cases r with
    | cmd => exact writeCommand_completes w s
    | irqen | id | status | fault | row | outPtr | lpPtr _ | hpPtr _ => exact ⟨_, rfl⟩
    | _ => exact absurd rfl h

/-- No register write stops the model with a fault. -/
theorem portWrite_ne_fault (width : Width) (offset : BitVec 8) (w : Word) (s : State) (f : Fault) :
    portWrite width offset w s ≠ .fault f := by
  unfold portWrite
  split
  · split
    · rename_i r _
      obtain ⟨t, ht⟩ := writeReg_completes r w s
      rw [ht]
      nofun
    · nofun
  · nofun

/-- Settles O59: only the orchestrator can meet a fault of the model, and in a state of the invariant its operation
finds wide channels and the rows it reads. -/
theorem invariantExcludesModelFaults : Obligations.InvariantExcludesModelFaults := by
  intro s inv f
  have runs (u : State) (hu : StripInv u) : orchestrate u ≠ .fault f := by
    obtain ⟨t, ht⟩ := orchestrate_completes hu
    rw [ht]
    nofun
  unfold step takeStep
  split
  · exact runs s inv
  · exact runs _ inv
  · unfold waitStep
    split
    · nofun
    · exact runs s inv
  · unfold portRead
    split <;> nofun
  · exact portWrite_ne_fault _ _ _ _ f
  · nofun
  · nofun
  · unfold hostOutWrite
    split <;> nofun
  · nofun

end Sys2Proof.Machine
end

section
/-! SUPPORT. What no operation and no step changes: the host's registers, COEF, WRERR and STATE but for the ways the
spec lists (R28, R30, R38, R53, R61, R65). -/

namespace Sys2Proof.Machine

/-! ### The frame of the block's own operations -/

/-- Between `s` and `t` only the block's own parts may have changed: position, pointers, flags, row buffers, OUT and the
model's records; not the host's registers, COEF or the platform (R38, R61). -/
def BlockFrame (s t : State) : Prop :=
  t = { s with
    phase := t.phase, row := t.row, stage := t.stage, wrerr := t.wrerr, faultRec := t.faultRec, outPtr := t.outPtr,
    lpPtr := t.lpPtr, hpPtr := t.hpPtr, rr := t.rr, wr := t.wr, cr := t.cr, sr := t.sr, ar := t.ar, out := t.out,
    overwritten := t.overwritten, hostOut := t.hostOut, freeCount := t.freeCount }

theorem sameDescriptors_refl (s : State) : SameDescriptors s s :=
  ⟨rfl, rfl, rfl, rfl, rfl, rfl, rfl, rfl, rfl, rfl, rfl, rfl, rfl, rfl⟩

theorem BlockFrame.sameDescriptors {s t : State} (h : BlockFrame s t) : SameDescriptors s t := by
  unfold BlockFrame at h
  rw [h]
  exact sameDescriptors_refl s

/-- The memories' and the platform's parts that no operation writes. -/
theorem BlockFrame.outside {s t : State} (h : BlockFrame s t) :
    t.coef = s.coef ∧ t.params = s.params ∧ t.bus = s.bus ∧ t.inputs = s.inputs ∧ t.rdata = s.rdata := by
  unfold BlockFrame at h
  rw [h]
  exact ⟨rfl, rfl, rfl, rfl, rfl⟩

theorem SlotFrame.block {k : BitVec 3} {s t : State} (h : SlotFrame k s t) : BlockFrame s t := by
  unfold BlockFrame
  rw [h.shape]

theorem raiseFault_block {c : FaultCode} {ch buf : BitVec 2} {s u : State} (h : BlockFrame s u) :
    BlockFrame s (raiseFault c ch buf u) := by
  unfold BlockFrame at h
  rw [h]
  rfl

theorem execStart_frame {s t : State} (h : execStart s = .next t) : BlockFrame s t ∧ t.out = s.out := by
  obtain ⟨-, -, rfl⟩ | ⟨v, -, -, rfl⟩ | ⟨-, rfl⟩ := execStart_next h
  · exact ⟨rfl, rfl⟩
  · exact ⟨rfl, rfl⟩
  · exact ⟨rfl, rfl⟩

/-- Every operation but RESET keeps to the block's own parts, and writes OUT in slot 6 only (R38, R61, R65, R176). -/
theorem exec_frame {i : Instr} (hi : i ≠ .reset) {s t : State} (h : exec i s = .next t) :
    BlockFrame s t ∧ (siteOf i ≠ .slot 6 → t.out = s.out) := by
  cases site : siteOf i with
  | cmd =>
    cases i with
    | nop => cases h; exact ⟨rfl, fun _ => rfl⟩
    | start =>
      obtain ⟨frame, out⟩ := execStart_frame h
      exact ⟨frame, fun _ => out⟩
    | reset => exact absurd rfl hi
    | _ => cases site
  | slot k =>
    by_cases adv : i = .adv
    · subst adv
      cases h
      exact ⟨rfl, fun _ => rfl⟩
    · obtain frame | ⟨-, u, ch, buf, frame, rfl⟩ := stage_end site adv h
      · exact ⟨frame.block, fun other => frame.out fun six => other (by rw [six])⟩
      · exact ⟨raiseFault_block frame.block, fun other => frame.out fun six => other (by rw [six])⟩

/-! ### No operation is refused -/

theorem synthesize_ne_refused (finish : Int → Int) (s : State) (r : Refusal) : synthesize finish s ≠ .refused r := by
  rw [synthesize_eq]
  split
  · nofun
  · split <;> nofun

/-- No operation is left without a meaning. -/
theorem exec_ne_refused (i : Instr) (s : State) (r : Refusal) : exec i s ≠ .refused r := by
  cases site : siteOf i with
  | cmd =>
    cases i with
    | nop => nofun
    | start =>
      obtain ⟨t, ht⟩ := execStart_completes s
      show execStart s ≠ _
      rw [ht]
      nofun
    | reset => nofun
    | _ => cases site
  | slot k =>
    by_cases first : k = 0
    · subst first
      obtain ⟨finish, syn⟩ := exec_syn site
      rw [syn]
      exact synthesize_ne_refused finish s r
    by_cases last : k = 7
    · subst last
      cases i with
      | adv => nofun
      | _ => cases site
    · obtain ⟨completes, stops⟩ := exec_gated site first last s
      by_cases held : RowsRead s i
      · obtain ⟨t, ht⟩ := completes held
        rw [ht]
        nofun
      · rw [stops held]
        nofun

/-- A reset's cut row changes OUT and the count of free values alone, and nothing unless a PK operation was running
(R216, U7). -/
theorem abandonRow_frame (s : State) :
    abandonRow s = { s with out := (abandonRow s).out, freeCount := (abandonRow s).freeCount } ∧
      (¬(s.phase = .busy ∧ s.stage = 6) → (abandonRow s).out = s.out) := by
  obtain same | ⟨i, bytes, busy, six, -, -, cut⟩ := abandonRow_cases s
  · rw [same]; exact ⟨rfl, fun _ => rfl⟩
  · rw [cut]; exact ⟨rfl, fun idle => absurd ⟨busy, six⟩ idle⟩

/-- Settles O53: RESET apart, every operation keeps to the block's own parts. -/
theorem operationsLeaveDescriptorsAndCoefficientsAlone :
    Obligations.OperationsLeaveDescriptorsAndCoefficientsAlone := by
  intro i s
  refine ⟨exec_ne_refused i s, fun t h => ?_⟩
  by_cases hi : i = .reset
  · subst hi
    obtain ⟨cut, out⟩ := abandonRow_frame s
    have after : t = resetRegisters (abandonRow s) := (Host.Outcome.next.inj h).symm
    have outside : t.coef = s.coef ∧ t.params = s.params ∧ t.bus = s.bus ∧ t.inputs = s.inputs ∧ t.rdata = s.rdata := by
      rw [after, cut]; exact ⟨rfl, rfl, rfl, rfl, rfl⟩
    obtain ⟨coef, params, bus, inputs, rdata⟩ := outside
    exact ⟨coef, params, bus, inputs, rdata, fun other => absurd rfl other,
      fun _ idle => by rw [after]; exact out fun running => idle ⟨rfl, running⟩⟩
  · obtain ⟨frame, out⟩ := exec_frame hi h
    obtain ⟨coef, params, bus, inputs, rdata⟩ := frame.outside
    exact ⟨coef, params, bus, inputs, rdata, fun _ => frame.sameDescriptors, fun other _ => out other⟩

/-! ### What a step of a running strip keeps -/

theorem StageCase.frame {s t : State} (h : StageCase s t) : BlockFrame s t ∧ t.wrerr = s.wrerr := by
  cases h with
  | advance _ after => cases after; exact ⟨rfl, rfl⟩
  | operation i u _ _ _ frame after =>
    rw [after, frame.shape]; exact ⟨rfl, rfl⟩
  | busError _ u ch buf frame after =>
    rw [after, frame.shape]; exact ⟨rfl, rfl⟩
  | skip _ after => rw [after]; exact ⟨rfl, rfl⟩

/-- Settles O21: of the cases of a step only the ignored writes set WRERR, and only the resets clear it. -/
theorem wrerrIsSticky : Obligations.WrerrIsSticky := by
  intro s t h
  obtain ⟨rest, c⟩ := step_cases h
  have kept (same : t.wrerr = s.wrerr) {p q : Prop} :
      (s.wrerr = true → t.wrerr = false → p) ∧ (s.wrerr = false → t.wrerr = true → q) := by
    rw [same]
    exact ⟨fun set clear => by simp [set] at clear, fun clear set => by simp [clear] at set⟩
  cases c with
  | quiet after => exact kept (by rw [after])
  | ignored offset w head why after =>
    exact ⟨fun _ clear => by simp [after] at clear, fun _ _ => ⟨offset, w, head, why⟩⟩
  | stored r w _ _ after => exact kept (by rw [after]; exact storeDescriptor_wrerr r w _)
  | reset head after => exact ⟨fun _ _ => head, fun _ set => by simp [after] at set⟩
  | began _ _ _ after => exact kept (by rw [after]; rfl)
  | rejected _ _ v _ after => exact kept (by rw [after]; rfl)
  | invalid _ _ _ _ after => exact kept (by rw [after]; rfl)
  | stage _ ran => exact kept ran.frame.2

/-- Settles O54: case by case of a step; a stage operation changes STATE by the last row's advance or by CV_BUS. -/
theorem stateChangesOnlyAsListed : Obligations.StateChangesOnlyAsListed := by
  intro s t h changed
  obtain ⟨rest, c⟩ := step_cases h
  cases c with
  | quiet after => exact absurd (by rw [after]) changed
  | ignored _ _ _ _ after => exact absurd (by rw [after]; rfl) changed
  | stored r w _ _ after => exact absurd (by rw [after]; exact storeDescriptor_phase r w _) changed
  | reset head after => exact .inl ⟨by rw [after]; rfl, head⟩
  | began head settled checked after =>
    exact .inr (.inl ⟨settled, head, .inl ⟨checked, by rw [after]; rfl⟩⟩)
  | rejected head settled v failed after =>
    exact .inr (.inl ⟨settled, head, .inr ⟨by rw [failed]; nofun, by rw [after]; rfl⟩⟩)
  | invalid w head bad settled after =>
    exact .inr (.inr (.inl ⟨settled, ⟨w, head, bad⟩, by rw [after]; rfl, by rw [after]; rfl⟩))
  | stage busy ran =>
    cases ran with
    | advance last after =>
      cases after
      by_cases end_row : s.row + 1 = height s
      · exact .inr (.inr (.inr (.inl ⟨busy, if_pos end_row, last, end_row⟩)))
      · exact absurd (if_neg end_row) changed
    | operation _ u _ _ _ frame after => exact absurd (by rw [after, frame.shape]) changed
    | busError slot u ch buf _ after =>
      exact .inr (.inr (.inr (.inr ⟨busy, by rw [after]; rfl, by rw [after]; rfl, slot⟩)))
    | skip _ after => exact absurd (by rw [after]) changed

end Sys2Proof.Machine
end

section
/-! SUPPORT. The register window: which register stands at an offset, what a read returns, what a write does, and the
bits of STATUS and FAULT (R31 to R53, R256). -/

namespace Sys2Proof.Machine

/-! ### The map of the window (R32) -/

/-- A register stands at a word's offset. -/
theorem accessOk_of_reg {offset : BitVec 8} {r : Reg} (h : regAt offset = some r) : accessOk .word offset = true := by
  have aligned : ∀ o : BitVec 8, (regAt o).isSome = true → accessOk .word o = true := by decide
  exact aligned offset (by rw [h]; rfl)

/-- The channel registers stand four to a block, in the order of the channels. -/
theorem regAt_channel (offset : BitVec 8) (ch : Fin 4) :
    (offset.toNat = 0x40 + 4 * ch.val → regAt offset = some (.lpBase ch)) ∧
      (offset.toNat = 0x50 + 4 * ch.val → regAt offset = some (.hpBase ch)) ∧
      (offset.toNat = 0x60 + 4 * ch.val → regAt offset = some (.lpPitch ch)) ∧
      (offset.toNat = 0x70 + 4 * ch.val → regAt offset = some (.hpPitch ch)) ∧
      (offset.toNat = 0x90 + 4 * ch.val → regAt offset = some (.lpPtr ch)) ∧
      (offset.toNat = 0xA0 + 4 * ch.val → regAt offset = some (.hpPtr ch)) := by
  unfold regAt
  refine ⟨fun h => ?_, fun h => ?_, fun h => ?_, fun h => ?_, fun h => ?_, fun h => ?_⟩ <;>
    (rw [h]; fin_cases ch <;> rfl)

theorem regAt_reserved {offset : BitVec 8}
    (h : offset ∈ ([0x38, 0x3C, 0x88, 0x8C] : List (BitVec 8)) ∨ 0xB0 ≤ offset.toNat) : regAt offset = none := by
  revert offset; decide

/-- The registers that ignore every write (R31, R32). -/
def isReadOnly : Reg → Bool
  | .id | .status | .fault | .row | .outPtr | .lpPtr _ | .hpPtr _ => true
  | _ => false

/-- Below IRQEN but for CMD, between the descriptor registers' two blocks, and from 0x80 on no register is writable. -/
theorem regAt_readOnly {offset : BitVec 8}
    (h : offset ∈ ([0x00, 0x08, 0x0C, 0x38, 0x3C] : List (BitVec 8)) ∨ 0x80 ≤ offset.toNat) :
    (regAt offset).all isReadOnly = true := by
  revert offset; decide

/-! ### Accesses as steps (R31) -/

theorem step_read {s : State} {rest : List Input} {width : Width} {offset : BitVec 8}
    (h : s.inputs = .read width offset :: rest) : step s = portRead width offset { s with inputs := rest } := by
  unfold step takeStep
  rw [h]

theorem step_write {s : State} {rest : List Input} {width : Width} {offset : BitVec 8} {w : Word}
    (h : s.inputs = .write width offset w :: rest) : step s = portWrite width offset w { s with inputs := rest } := by
  unfold step takeStep
  rw [h]

theorem step_hardReset {s : State} {rest : List Input} (h : s.inputs = .hardReset :: rest) :
    step s = .next (resetRegisters (abandonRow { s with inputs := rest })) := by
  unfold step takeStep
  rw [h]

theorem portWrite_reg {offset : BitVec 8} {r : Reg} (h : regAt offset = some r) (w : Word) (s : State) :
    portWrite .word offset w s = writeReg r w s := by
  rw [portWrite, if_pos (accessOk_of_reg h), h]

theorem accessOk_false_iff (width : Width) (offset : BitVec 8) :
    accessOk width offset = false ↔ width ≠ .word ∨ offset.toNat % 4 ≠ 0 := by
  rw [accessOk, Bool.and_eq_false_iff, decide_eq_false_iff_not, decide_eq_false_iff_not]

/-- A write at an aligned offset without a writable register changes nothing. -/
theorem portWrite_readOnly {offset : BitVec 8} (aligned : offset.toNat % 4 = 0)
    (h : (regAt offset).all isReadOnly = true) (w : Word) (s : State) : portWrite .word offset w s = .next s := by
  rw [portWrite, if_pos (by simp [accessOk, aligned])]
  cases reg : regAt offset with
  | none => rfl
  | some r =>
    rw [reg] at h
    cases r with
    | id | status | fault | row | outPtr | lpPtr _ | hpPtr _ => rfl
    | _ => cases h

/-- Settles O8: the write reaches CMD, where the word is decoded and executed. -/
theorem stepRunsTheCommandWritten : Obligations.StepRunsTheCommandWritten := by
  intro s rest w i head hd
  rw [step_write head, portWrite_reg (r := .cmd) rfl, writeReg, writeCommand, hd]

/-! ### Reads -/

theorem readOffset_reg {offset : BitVec 8} {r : Reg} (h : regAt offset = some r) (s : State) :
    readOffset s offset = readReg s r := by
  rw [readOffset, h]

theorem readOffset_reserved {offset : BitVec 8} (h : regAt offset = none) (s : State) : readOffset s offset = 0 := by
  rw [readOffset, h]

/-- Settles O16: a read returns the register of its offset, by the map of the window. -/
theorem registerReadsReturnTheirRegister : Obligations.RegisterReadsReturnTheirRegister := by
  intro s rest offset head aligned
  have reads {o : BitVec 8} (r : Reg) (map : regAt o = some r) (h : offset = o) :
      readOffset { s with inputs := rest } offset = readReg s r := by
    rw [h]; exact readOffset_reg map _
  refine ⟨readOffset { s with inputs := rest } offset, ?_, reads .id rfl, reads .cmd rfl, reads .status rfl,
    reads .fault rfl, reads .irqen rfl, reads .scw rfl, reads .prec rfl, reads .roi rfl, reads .diffoff rfl,
    reads .alphaDc rfl, reads .alphaGain rfl, reads .alphaScale rfl, reads .outBase rfl, reads .outPitch rfl,
    fun ch => ?_, reads .row rfl, reads .outPtr rfl,
    fun reserved => readOffset_reserved (regAt_reserved reserved) { s with inputs := rest }⟩
  · rw [step_read head, portRead, if_pos (by simp [accessOk, aligned])]
  · obtain ⟨lpBase, hpBase, lpPitch, hpPitch, lpPtr, hpPtr⟩ := regAt_channel offset ch
    exact ⟨fun h => readOffset_reg (lpBase h) _, fun h => readOffset_reg (hpBase h) _,
      fun h => readOffset_reg (lpPitch h) _, fun h => readOffset_reg (hpPitch h) _,
      fun h => readOffset_reg (lpPtr h) _, fun h => readOffset_reg (hpPtr h) _⟩

/-! ### STATUS and FAULT (R35, R36, R256) -/

theorem getElem_bitAt (b : Bool) (k i : Nat) (hi : i < 32) : (bitAt b k)[i] = (b && decide (k = i)) := by
  have one : bitAt true k = BitVec.twoPow 32 k := rfl
  cases b
  · simp [bitAt]
  · rw [one, BitVec.getElem_twoPow, Bool.true_and]
    simp [eq_comm]

theorem statusWord_fields (s : State) :
    (statusWord s).extractLsb' 0 2 = phaseBits s.phase ∧ (statusWord s).extractLsb' 2 2 = 0 ∧
      (statusWord s).getLsbD 4 = s.wrerr ∧ (statusWord s).getLsbD 5 = irqLine s ∧
      (statusWord s).extractLsb' 6 2 = 0 ∧ (statusWord s).extractLsb' 8 3 = s.stage ∧
      (statusWord s).extractLsb' 11 21 = 0 := by
  unfold statusWord
  refine ⟨?_, ?_, ?_, ?_, ?_, ?_, ?_⟩
  case refine_3 => simp [getElem_bitAt]
  case refine_4 => simp [getElem_bitAt]
  all_goals
    apply BitVec.eq_of_getLsbD_eq
    intro i hi
    interval_cases i <;> simp [getElem_bitAt]

theorem faultWord_fields (s : State) :
    (faultWord s).extractLsb' 0 8 = s.faultRec.code ∧ (faultWord s).extractLsb' 8 2 = s.faultRec.ch ∧
      (faultWord s).extractLsb' 10 2 = s.faultRec.buf ∧ (faultWord s).extractLsb' 12 4 = 0 ∧
      (faultWord s).extractLsb' 16 16 = s.faultRec.row := by
  unfold faultWord
  refine ⟨?_, ?_, ?_, ?_, ?_⟩
  all_goals
    apply BitVec.eq_of_getLsbD_eq
    intro i hi
    interval_cases i <;> simp

theorem irqLine_iff (s : State) :
    irqLine s = true ↔
      (s.phase = .done ∧ s.irqen.getLsbD 0 = true) ∨ (s.phase = .fault ∧ s.irqen.getLsbD 1 = true) := by
  simp [irqLine, doneEnabled, faultEnabled, wordBit]

/-- Settles O17: the fields of the two words bit by bit. -/
theorem statusAndFaultFields : Obligations.StatusAndFaultFields := by
  intro s
  obtain ⟨state, gap1, wrerr, irq, gap2, stage, gap3⟩ := statusWord_fields s
  have bits : phaseBits s.phase = (match s.phase with | .idle => 0 | .busy => 1 | .done => 2 | .fault => 3) := by
    cases s.phase <;> rfl
  exact ⟨state.trans bits, gap1, wrerr, irq, gap2, stage, gap3, irqLine_iff s, faultWord_fields s⟩

/-! ### Writes -/

/-- Settles O19: IRQEN stores the word; at the other offsets named no writable register stands; and an access that is
not of an aligned word fails the check of the interface. -/
theorem otherRegisterAccesses : Obligations.OtherRegisterAccesses := by
  intro s rest width offset
  refine ⟨fun w head => ⟨?_, ?_, fun narrow => ?_⟩, fun head narrow => ?_⟩
  · rintro rfl rfl
    rw [step_write head, portWrite_reg (r := .irqen) rfl]
    rfl
  · rintro rfl aligned readOnly
    rw [step_write head]
    exact portWrite_readOnly aligned (regAt_readOnly readOnly) w _
  · rw [step_write head, portWrite, (accessOk_false_iff _ _).2 narrow]
    rfl
  · rw [step_read head, portRead, (accessOk_false_iff _ _).2 narrow]
    rfl

theorem readReg_storeDescriptor_same {r : Reg} (h : isDescriptor r = true) (v : Word) (s : State) :
    readReg (storeDescriptor r v s) r = v := by
  cases r with
  | id | cmd | status | fault | irqen | row | outPtr | lpPtr _ | hpPtr _ => cases h
  | lpBase ch | hpBase ch | lpPitch ch | hpPitch ch => exact Quad.get_set_same _ ch v
  | _ => rfl

theorem Quad.get_set_other {α : Type} (q : Quad α) {ch i : Fin 4} (h : i ≠ ch) (x : α) : (q.set ch x).get i = q.get i := by
  rw [Quad.get_set, if_neg h]

theorem readReg_storeDescriptor_other {q r : Reg} (h : q ≠ r) (v : Word) (s : State) :
    readReg (storeDescriptor r v s) q = readReg s q := by
  cases r with
  | id | cmd | status | fault | irqen | row | outPtr | lpPtr _ | hpPtr _ => rfl
  | lpBase ch =>
    cases q with
    | lpBase i => exact Quad.get_set_other _ (fun same => h (by rw [same])) v
    | _ => rfl
  | hpBase ch =>
    cases q with
    | hpBase i => exact Quad.get_set_other _ (fun same => h (by rw [same])) v
    | _ => rfl
  | lpPitch ch =>
    cases q with
    | lpPitch i => exact Quad.get_set_other _ (fun same => h (by rw [same])) v
    | _ => rfl
  | hpPitch ch =>
    cases q with
    | hpPitch i => exact Quad.get_set_other _ (fun same => h (by rw [same])) v
    | _ => rfl
  | scw => cases q with | scw => exact absurd rfl h | _ => rfl
  | prec => cases q with | prec => exact absurd rfl h | _ => rfl
  | roi => cases q with | roi => exact absurd rfl h | _ => rfl
  | diffoff => cases q with | diffoff => exact absurd rfl h | _ => rfl
  | alphaDc => cases q with | alphaDc => exact absurd rfl h | _ => rfl
  | alphaGain => cases q with | alphaGain => exact absurd rfl h | _ => rfl
  | alphaScale => cases q with | alphaScale => exact absurd rfl h | _ => rfl
  | outBase => cases q with | outBase => exact absurd rfl h | _ => rfl
  | outPitch => cases q with | outPitch => exact absurd rfl h | _ => rfl

theorem sameMemories_storeDescriptor (r : Reg) (v : Word) (s : State) : SameMemories s (storeDescriptor r v s) := by
  constructor <;> intro a
  · rw [outByte, storeDescriptor_out]; rfl
  · rw [coefSample, storeDescriptor_coef]; rfl

/-- A step of a running strip that does not reset it keeps the descriptor registers (R53). -/
theorem sameDescriptors_of_busy {s t : State} (busy : s.phase = .busy) (h : step s = .next t)
    (running : t.phase ≠ .idle) : SameDescriptors { s with irqen := t.irqen } t := by
  obtain ⟨rest, c⟩ := step_cases h
  cases c with
  | quiet after => rw [after]; exact sameDescriptors_refl { s with irqen := t.irqen }
  | ignored _ _ _ _ after => rw [after]; exact sameDescriptors_refl s
  | stored _ _ _ settled _ => exact absurd busy settled
  | reset _ after => exact absurd (by rw [after]; rfl) running
  | began _ settled _ _ => simp [busy] at settled
  | rejected _ settled _ _ _ => simp [busy] at settled
  | invalid _ _ _ settled _ => simp [busy] at settled
  | stage _ ran =>
    have frame := ran.frame.1
    unfold BlockFrame at frame
    rw [frame]
    exact sameDescriptors_refl s

/-- Settles O18: the branches of a descriptor write, and the frame of every step of a running strip. -/
theorem descriptorsAreFrozenWhileBusy : Obligations.DescriptorsAreFrozenWhileBusy := by
  refine ⟨fun s rest offset r w head reg descriptor => ?_, fun s t => sameDescriptors_of_busy⟩
  rw [step_write head, portWrite_reg reg, writeReg_descriptor descriptor]
  refine ⟨fun busy => if_pos busy, fun settled => ⟨storeDescriptor r w { s with inputs := rest }, if_neg settled, ?_⟩⟩
  exact ⟨readReg_storeDescriptor_same descriptor w _, fun q other => readReg_storeDescriptor_other other w _,
    sameMemories_storeDescriptor r w _, storeDescriptor_shape r w _⟩

/-! ### After a reset (R56) -/

theorem readReg_resetRegisters (s : State) (r : Reg) :
    readReg (resetRegisters s) r = if r = .id then 0x49485350 else 0 := by
  have zero (ch : Fin 4) : (⟨0, 0, 0, 0⟩ : Quad Word).get ch = 0 := by fin_cases ch <;> rfl
  cases r with
  | lpBase ch | hpBase ch | lpPitch ch | hpPitch ch | lpPtr ch | hpPtr ch => exact zero ch
  | status => simp [readReg, statusWord, irqLine, phaseBits, bitAt]
  | fault => simp [readReg, faultWord, noFault]
  | _ => rfl

/-- Settles O20: power-on, RESET and the hardware reset all end in the same registers. -/
theorem resetValuesReadBack : Obligations.ResetValuesReadBack := by
  have cleared (u : State) := readReg_resetRegisters u
  exact ⟨⟨cleared State.reset, rfl, rfl, rfl, rfl, rfl⟩,
    fun s => ⟨_, rfl, cleared (abandonRow s), rfl, rfl, rfl, rfl, rfl⟩,
    fun s rest head => ⟨_, step_hardReset head, cleared (abandonRow { s with inputs := rest }), rfl, rfl, rfl, rfl, rfl⟩⟩

end Sys2Proof.Machine
end

section
/-! SUPPORT. The canonical form of the two memories, kept by every operation and every step (R61, R63). -/

namespace Sys2Proof.Machine

/-- The canonical form is one of COEF and OUT alone. -/
theorem MemoriesCanonical.of_same {s t : State} (h : MemoriesCanonical s) (coef : t.coef = s.coef)
    (out : t.out = s.out) : MemoriesCanonical t := by
  obtain ⟨hcoef, hout⟩ := h
  exact ⟨by rw [coef]; exact hcoef, by rw [out]; exact hout⟩

/-- A row written, whole or in part, keeps both memories canonical (R64). -/
theorem MemoriesCanonical.writeRow {s : State} (h : MemoriesCanonical s) (keep : Nat → Bool) (bytes : List Byte) :
    MemoriesCanonical (writeRow keep bytes s) := ⟨h.1, wf_writeRow keep bytes h.2⟩

theorem storeRow_keeps_canonical {packed : Except Fault (List Byte)} {s t : State} (h : MemoriesCanonical s)
    (ran : storeRow packed s = .next t) : MemoriesCanonical t := by
  obtain ⟨bytes, -, ⟨-, rfl⟩ | ⟨-, rfl⟩⟩ := storeRow_next ran
  · exact h.writeRow _ bytes
  · exact (h.writeRow _ bytes).of_same rfl rfl

theorem abandonRow_keeps_canonical {s : State} (h : MemoriesCanonical s) : MemoriesCanonical (abandonRow s) := by
  obtain same | ⟨i, bytes, -, -, -, -, cut⟩ := abandonRow_cases s
  · rw [same]; exact h
  · rw [cut]; exact h.writeRow _ bytes

/-- Every operation keeps both memories canonical: none writes COEF, and OUT is written row by row (R61, R176). -/
theorem exec_keeps_canonical {i : Instr} {s t : State} (h : MemoriesCanonical s) (ran : exec i s = .next t) :
    MemoriesCanonical t := by
  by_cases reset : i = .reset
  · subst reset
    cases ran
    exact (abandonRow_keeps_canonical h).of_same rfl rfl
  by_cases pack : siteOf i = .slot 6
  · rw [exec_pack pack] at ran
    exact storeRow_keeps_canonical h ran
  · obtain ⟨frame, out⟩ := exec_frame reset ran
    exact h.of_same frame.outside.1 (out pack)

theorem orchestrate_keeps_canonical {s t : State} (h : MemoriesCanonical s) (ran : orchestrate s = .next t) :
    MemoriesCanonical t := by
  obtain ⟨-, ran⟩ | ⟨-, rfl⟩ := orchestrate_next ran
  · obtain ⟨i, u, -, after, rfl⟩ | ⟨-, rfl⟩ := stageStep_next ran
    · exact (exec_keeps_canonical h after).of_same (advanceStage_coef i u) (advanceStage_out i u)
    · exact h
  · exact h

theorem writeCommand_keeps_canonical {w : Word} {s t : State} (h : MemoriesCanonical s)
    (ran : writeCommand w s = .next t) : MemoriesCanonical t := by
  unfold writeCommand at ran
  split at ran
  · exact exec_keeps_canonical h ran
  · cases ran
    unfold invalidCommand
    split <;> exact h

theorem portWrite_keeps_canonical {width : Width} {offset : BitVec 8} {w : Word} {s t : State}
    (h : MemoriesCanonical s) (ran : portWrite width offset w s = .next t) : MemoriesCanonical t := by
  obtain ⟨-, rfl | ⟨-, rfl⟩ | ⟨-, ran⟩ | ⟨r, -, -, ⟨-, rfl⟩ | ⟨-, rfl⟩⟩⟩ := portWrite_next ran
  · exact h
  · exact h
  · exact writeCommand_keeps_canonical h ran
  · exact h
  · exact h.of_same (storeDescriptor_coef r w s) (storeDescriptor_out r w s)

/-- Settles O56: by the action at the head of the queue; the host writes one unit at an address below 2^32, and the
block's own operations write OUT row by row. -/
theorem stepKeepsMemoriesCanonical : Obligations.StepKeepsMemoriesCanonical := by
  intro s t h ran
  obtain ⟨-, ran⟩ | ⟨e, rest, -, ran⟩ := step_next ran
  · exact orchestrate_keeps_canonical h ran
  have waiting : MemoriesCanonical { s with inputs := rest } := h
  cases e with
  | run => exact orchestrate_keeps_canonical waiting ran
  | wait =>
    obtain ⟨-, rfl⟩ | ran := ran
    · exact h
    · exact orchestrate_keeps_canonical h ran
  | read _ _ => cases ran; exact h
  | write _ _ _ => exact portWrite_keeps_canonical waiting ran
  | hardReset => cases ran; exact (abandonRow_keeps_canonical waiting).of_same rfl rfl
  | coefWrite a v => cases ran; exact ⟨Memory.wf_write h.1 a.isLt v, h.2⟩
  | outWrite a v =>
    obtain ⟨b, after, -⟩ := ran
    rw [after]
    exact ⟨h.1, Memory.wf_write h.2 a.isLt b⟩
  | busAnswers _ _ => cases ran; exact h

end Sys2Proof.Machine
end

section
/-! SUPPORT. The rows of the SYN operations, element by element (R110 to R119). -/

namespace Sys2Proof.Machine

/-! ### The sums by their place in the row (R113 to R115) -/

theorem preEven_first (lp hp : Nat → Int) (n : Nat) :
    preEven lp hp n 0 = rd8 (11 * lp 0 - 4 * lp 1 + lp 2) + hp 0 := by
  rw [preEven, if_pos rfl, one_mul]

theorem preOdd_first (lp hp : Nat → Int) (n : Nat) :
    preOdd lp hp n 0 = rd8 (5 * lp 0 + 4 * lp 1 - lp 2) - hp 0 := by
  rw [preOdd, if_pos rfl, one_mul]

theorem preEven_between (lp hp : Nat → Int) {n c : Nat} (first : 1 ≤ c) (last : c + 2 ≤ n) :
    preEven lp hp n c = rd8 (lp (c - 1) - lp (c + 1)) + lp c + hp c := by
  rw [preEven, if_neg (by omega), if_neg (by omega)]

theorem preOdd_between (lp hp : Nat → Int) {n c : Nat} (first : 1 ≤ c) (last : c + 2 ≤ n) :
    preOdd lp hp n c = rd8 (lp (c + 1) - lp (c - 1)) + lp c - hp c := by
  rw [preOdd, if_neg (by omega), if_neg (by omega)]

theorem preEven_last (lp hp : Nat → Int) {n : Nat} (wide : 2 ≤ n) :
    preEven lp hp n (n - 1) = rd8 (5 * lp (n - 1) + 4 * lp (n - 2) - lp (n - 3)) + hp (n - 1) := by
  rw [preEven, if_neg (by omega), if_pos (by omega), one_mul]

theorem preOdd_last (lp hp : Nat → Int) {n : Nat} (wide : 2 ≤ n) :
    preOdd lp hp n (n - 1) = rd8 (11 * lp (n - 1) - 4 * lp (n - 2) + lp (n - 3)) - hp (n - 1) := by
  rw [preOdd, if_neg (by omega), if_pos (by omega), one_mul]

/-! ### Elements of a synthesized row -/

/-- An element of a SYN operation's row is its sum over reads that the samples allow (R72, R78). -/
theorem sumOfReads_synthRow (finish : Int → Int) (s : State) (ch : Fin 4) {i : Nat} (h : i < 2 * chanCount s ch)
    {sum : (Nat → Int) → (Nat → Int) → Int} (is : ∀ lp hp, preSum lp hp (chanCount s ch) i = sum lp hp) :
    SumOfReads finish s ch (synthRow finish s ch)[i]? sum :=
  ⟨readLow s ch i, readHigh s ch i, fun c _ => ⟨readLow_mem s ch i c, readHigh_mem s ch i c⟩, by
    rw [synthRow_getElem? finish s ch h, is]⟩

theorem sumOfReads_even (finish : Int → Int) (s : State) (ch : Fin 4) {c : Nat} (h : c < chanCount s ch)
    {sum : (Nat → Int) → (Nat → Int) → Int} (is : ∀ lp hp, preEven lp hp (chanCount s ch) c = sum lp hp) :
    SumOfReads finish s ch (synthRow finish s ch)[2 * c]? sum :=
  sumOfReads_synthRow finish s ch (by omega) fun lp hp => by rw [preSum_even, is]

theorem sumOfReads_odd (finish : Int → Int) (s : State) (ch : Fin 4) {c : Nat} (h : c < chanCount s ch)
    {sum : (Nat → Int) → (Nat → Int) → Int} (is : ∀ lp hp, preOdd lp hp (chanCount s ch) c = sum lp hp) :
    SumOfReads finish s ch (synthRow finish s ch)[2 * c + 1]? sum :=
  sumOfReads_synthRow finish s ch (by omega) fun lp hp => by rw [preSum_odd, is]

/-- The row a SYN operation leaves in RR is the row of R113 to R115. -/
theorem synthesizedRow_of_eq {finish : Int → Int} {s t : State} {ch : Fin 4} (wide : 3 ≤ chanCount s ch)
    (row : t.rr.get ch = synthRow finish s ch) : SynthesizedRow finish s t ch := by
  unfold SynthesizedRow
  rw [row]
  refine ⟨synthRow_length finish s ch, ⟨?_, ?_⟩, fun c first last => ⟨?_, ?_⟩, ?_, ?_⟩
  · exact sumOfReads_even finish s ch (c := 0) (by omega) fun lp hp => preEven_first lp hp _
  · exact sumOfReads_odd finish s ch (c := 0) (by omega) fun lp hp => preOdd_first lp hp _
  · exact sumOfReads_even finish s ch (by omega) fun lp hp => preEven_between lp hp first last
  · exact sumOfReads_odd finish s ch (by omega) fun lp hp => preOdd_between lp hp first last
  · exact sumOfReads_even finish s ch (by omega) fun lp hp => preEven_last lp hp (by omega)
  · exact sumOfReads_odd finish s ch (by omega) fun lp hp => preOdd_last lp hp (by omega)

/-! ### The three operations -/

/-- On wide channels with every read answered a SYN operation completes, and leaves the rows of R113 to R115 in RR of
the channels in use and nothing else changed (R110, R112). -/
theorem synthesize_result (finish : Int → Int) {s : State} (wide : ChannelsWide s) (answered : ReadsAnswered s) :
    ∃ t, synthesize finish s = .next t ∧ t = { s with rr := t.rr, freeCount := t.freeCount } ∧ SameMemories s t ∧
      (∀ ch, inUse s ch = true → SynthesizedRow finish s t ch) ∧
      ∀ ch, inUse s ch = false → t.rr.get ch = s.rr.get ch := by
  refine ⟨_, synthesize_answered finish wide answered, rfl, ⟨fun _ => rfl, fun _ => rfl⟩, fun ch used => ?_,
    fun ch unused => ?_⟩
  · refine synthesizedRow_of_eq (wide ch used) ?_
    rw [useFree_rr, Quad.get_build, if_pos used]
  · rw [useFree_rr, Quad.get_build, unused, if_neg Bool.false_ne_true]

/-- SYN.DSC's last step: doubled when DSHIFT is set (R119). -/
theorem finishDsc_eq (shift : Bool) : finishDsc shift = fun x => clamp16 (clamp16 x * if shift then 2 else 1) := by
  cases shift <;> rfl

/-- Settles O24: the SYN operation whose last step halves the clamped sum. -/
theorem synStdResult : Obligations.SynStdResult :=
  fun div2rnd _ wide answered => synthesize_result (finishStd div2rnd) wide answered

/-- Settles O25: the SYN operation whose last step halves the clamped sum and clamps it to LIMBITS bits. -/
theorem synLimResult : Obligations.SynLimResult :=
  fun div2rnd limbits _ wide answered => synthesize_result (finishLim div2rnd limbits.toNat) wide answered

/-- Settles O26: the SYN operation whose last step doubles under DSHIFT. -/
theorem synDscResult : Obligations.SynDscResult := by
  intro dshift s wide answered
  rw [← finishDsc_eq]
  exact synthesize_result (finishDsc dshift) wide answered

end Sys2Proof.Machine
end

section
/-! SUPPORT. How many bytes a PK operation writes (R99, R176), what it does when every write is answered (R64, R73), and
lists of bytes, words and samples as they stand in its row (R16). -/

namespace Sys2Proof.Machine

/-! ### The length of a packed row -/

theorem needRows_of_true {α : Type} {ok : Bool} (h : ok = true) (x : α) : needRows ok x = .ok x := by
  rw [h, needRows_true]

theorem eq_of_needRows {α : Type} {ok : Bool} {x y : α} (h : needRows ok x = .ok y) : y = x := by
  cases ok <;> cases h
  rfl

/-- The number of bytes of the row a PK operation builds; the other operations build none. -/
def packedLength : Instr → State → Nat
  | .pkYuyv _, s | .pkUyvy _, s => 4 * coefCount s
  | .pkV210 _, s => rowWidth s / 6 * 16
  | .pkV408 _, s | .pkAyuv _, s => 4 * rowWidth s
  | .pkP16 alpha, s => 2 * (rowWidth s + 2 * (2 * chanCount s 1) + if alpha then rowWidth s else 0)
  | .pkRg30, s | .pkAr10, s | .pkAb10, s | .pkR210, s | .pkDpx0, s => 4 * rowWidth s
  | .pkB64a _, s => 8 * rowWidth s
  | _, _ => 0

@[simp] theorem planeP16_length (s : State) (n : Nat) (row : Row) : (planeP16 s n row).length = 2 * n := by
  rw [planeP16, flatMap_range_length _ 2 n fun _ => rfl, Nat.mul_comm]

/-- A row of groups of `L` bytes that stands behind a check of its rows. -/
theorem length_of_groups {ok : Bool} {g : Nat → List Byte} {n : Nat} {bytes : List Byte}
    (packed : needRows ok ((List.range n).flatMap g) = .ok bytes) (L : Nat) (size : ∀ j, (g j).length = L) :
    bytes.length = L * n := by
  rw [eq_of_needRows packed, flatMap_range_length g L n size, Nat.mul_comm]

theorem packedBytes_length {i : Instr} {s : State} {bytes : List Byte} (packed : packedBytes i s = .ok bytes) :
    bytes.length = packedLength i s := by
  cases i with
  | pkYuyv _ | pkUyvy _ => exact length_of_groups packed 4 fun _ => rfl
  | pkV408 _ | pkAyuv _ => exact length_of_groups packed 4 fun _ => rfl
  | pkRg30 | pkAr10 | pkAb10 | pkR210 | pkDpx0 => exact length_of_groups packed 4 fun _ => rfl
  | pkV210 _ => rw [length_of_groups packed 16 fun _ => rfl]; exact Nat.mul_comm _ _
  | pkB64a _ => exact length_of_groups packed 8 fun _ => rfl
  | pkP16 alpha =>
    rw [eq_of_needRows packed]
    cases alpha <;> simp [packedLength] <;> ring
  | _ => cases packed; rfl

/-- A row is far shorter than the address space, so no two of its bytes share an address (R40). -/
theorem packedLength_le (i : Instr) (s : State) : packedLength i s ≤ 2 ^ 32 := by
  have count := coefCount_lt s
  have chroma := chanCount_le s 1
  cases i with
  | pkP16 alpha => simp only [packedLength, rowWidth]; split <;> omega
  | _ => simp only [packedLength, rowWidth]; omega

/-! ### A PK operation with every write answered -/

/-- It completes, changes no byte outside its row, and leaves its packed value in every byte that the host has not
written since START (R73, R275). -/
theorem pack_answered {i : Instr} {s : State} {bytes : List Byte} (hk : siteOf i = .slot 6)
    (packed : packedBytes i s = .ok bytes) (answered : WritesAnswered s bytes.length) :
    ∃ t, exec i s = .next t ∧ OnlyRowWritten s t bytes.length ∧
      ∀ k b, bytes[k]? = some b → (s.outPtr + BitVec.ofNat 32 k).toNat ∉ s.hostOut → rowByte s t k = b := by
  have short : bytes.length ≤ 2 ^ 32 := by rw [packedBytes_length packed]; exact packedLength_le i s
  refine ⟨writeWhole bytes s, ?_, ⟨rfl, sameOutsideRow_writeRow _ s bytes short⟩, fun k b =>
    rowByte_writeWhole s bytes short⟩
  rw [exec_pack hk, packed, storeRow_answered answered]

/-- The bytes of a list stand in the row from byte `k` on. -/
def RowHolds (s t : State) (k : Nat) (bytes : List Byte) : Prop := ∀ r b, bytes[r]? = some b → rowByte s t (k + r) = b

/-- A PK operation that has its row to itself leaves the whole packed row in it. -/
theorem pack_completes {i : Instr} {s : State} {bytes : List Byte} (hk : siteOf i = .slot 6)
    (packed : packedBytes i s = .ok bytes) (row : RowWritable s (packedLength i s)) :
    ∃ t, exec i s = .next t ∧ OnlyRowWritten s t (packedLength i s) ∧ RowHolds s t 0 bytes := by
  rw [← packedBytes_length packed] at row ⊢
  obtain ⟨answered, alone⟩ := row
  obtain ⟨t, ran, only, bytewise⟩ := pack_answered hk packed answered
  refine ⟨t, ran, only, fun r b hb => ?_⟩
  rw [Nat.zero_add]
  exact bytewise r b hb (alone r (List.getElem?_eq_some_iff.1 hb).1)

/-! ### Lists of bytes in a row -/

theorem rowHolds_cons {s t : State} {k : Nat} {b : Byte} {bytes : List Byte} :
    RowHolds s t k (b :: bytes) ↔ rowByte s t k = b ∧ RowHolds s t (k + 1) bytes := by
  constructor
  · intro h
    refine ⟨h 0 b rfl, fun r c hc => ?_⟩
    rw [Nat.add_assoc, Nat.add_comm 1 r]
    exact h (r + 1) c hc
  · rintro ⟨head, tail⟩ r c hc
    cases r with
    | zero => exact head.trans (Option.some.inj hc)
    | succ r =>
      rw [Nat.add_comm r 1, ← Nat.add_assoc]
      exact tail r c hc

theorem rowHolds_nil (s t : State) (k : Nat) : RowHolds s t k [] := nofun

/-- Two lists one after another (R185). -/
theorem rowHolds_append {s t : State} {xs ys : List Byte} :
    ∀ {k : Nat}, RowHolds s t k (xs ++ ys) ↔ RowHolds s t k xs ∧ RowHolds s t (k + xs.length) ys := by
  induction xs with
  | nil => exact ⟨fun h => ⟨rowHolds_nil s t _, h⟩, fun h => h.2⟩
  | cons x xs ih =>
    intro k
    rw [List.cons_append, rowHolds_cons, rowHolds_cons, ih, and_assoc, List.length_cons, Nat.add_assoc,
      Nat.add_comm 1 xs.length]

/-- Group `j` of a row of equal-sized groups stands at byte `L * j`. -/
theorem RowHolds.group {s t : State} {k n L : Nat} {g : Nat → List Byte} (h : RowHolds s t k ((List.range n).flatMap g))
    (size : ∀ j, (g j).length = L) {j : Nat} (hj : j < n) : RowHolds s t (k + L * j) (g j) := by
  intro r b hb
  have inside : r < L := by
    rw [← size j]
    exact (List.getElem?_eq_some_iff.1 hb).1
  rw [Nat.add_assoc]
  exact h _ b (by rw [flatMap_range_getElem? g size hj inside]; exact hb)

/-! ### Samples and words in a row (R16) -/

/-- The two bytes of a 16-bit unit, joined. -/
theorem append_bytes16 (w : BitVec 16) : w.extractLsb' 8 8 ++ w.extractLsb' 0 8 = w :=
  (BitVec.extractLsb'_append_extractLsb'_eq_extractLsb' (by rfl)).trans BitVec.extractLsb'_eq_self

/-- The four bytes of a word, joined by twos. -/
theorem append_bytes32 (w : Word) :
    (w.extractLsb' 24 8 ++ w.extractLsb' 16 8) ++ (w.extractLsb' 8 8 ++ w.extractLsb' 0 8) = w := by
  have high : w.extractLsb' 24 8 ++ w.extractLsb' 16 8 = w.extractLsb' 16 16 :=
    BitVec.extractLsb'_append_extractLsb'_eq_extractLsb' (by rfl)
  have low : w.extractLsb' 8 8 ++ w.extractLsb' 0 8 = w.extractLsb' 0 16 :=
    BitVec.extractLsb'_append_extractLsb'_eq_extractLsb' (by rfl)
  rw [high, low]
  exact (BitVec.extractLsb'_append_extractLsb'_eq_extractLsb' (by rfl)).trans BitVec.extractLsb'_eq_self

theorem RowHolds.le16 {s t : State} {k : Nat} {w : BitVec 16} (h : RowHolds s t k (le16 w)) : rowLe16 s t k = w := by
  obtain ⟨low, high, -⟩ : rowByte s t k = _ ∧ rowByte s t (k + 1) = _ ∧ _ := by
    simpa only [Machine.le16, rowHolds_cons] using h
  rw [rowLe16, low, high, append_bytes16]

theorem RowHolds.be16 {s t : State} {k : Nat} {w : BitVec 16} (h : RowHolds s t k (be16 w)) : rowBe16 s t k = w := by
  obtain ⟨high, low, -⟩ : rowByte s t k = _ ∧ rowByte s t (k + 1) = _ ∧ _ := by
    simpa only [Machine.be16, rowHolds_cons] using h
  rw [rowBe16, low, high, append_bytes16]

theorem RowHolds.le32 {s t : State} {k : Nat} {w : Word} (h : RowHolds s t k (le32 w)) : rowLe32 s t k = w := by
  obtain ⟨b0, b1, b2, b3, -⟩ : rowByte s t k = _ ∧ rowByte s t (k + 1) = _ ∧ rowByte s t (k + 1 + 1) = _ ∧
      rowByte s t (k + 1 + 1 + 1) = _ ∧ _ := by
    simpa only [Machine.le32, rowHolds_cons] using h
  rw [rowLe32, rowLe16, rowLe16, b0, b1, b2, b3, append_bytes32]

theorem RowHolds.be32 {s t : State} {k : Nat} {w : Word} (h : RowHolds s t k (be32 w)) : rowBe32 s t k = w := by
  obtain ⟨b3, b2, b1, b0, -⟩ : rowByte s t k = _ ∧ rowByte s t (k + 1) = _ ∧ rowByte s t (k + 1 + 1) = _ ∧
      rowByte s t (k + 1 + 1 + 1) = _ ∧ _ := by
    simpa only [Machine.be32, Machine.le32, List.reverse_cons, List.reverse_nil, List.nil_append, List.cons_append,
      rowHolds_cons] using h
  rw [rowBe32, rowBe16, rowBe16, b0, b1, b2, b3, append_bytes32]

/-- Four bytes of a row, one by one. -/
theorem RowHolds.four {s t : State} {k : Nat} {a b c d : Byte} (h : RowHolds s t k [a, b, c, d]) :
    rowByte s t k = a ∧ rowByte s t (k + 1) = b ∧ rowByte s t (k + 2) = c ∧ rowByte s t (k + 3) = d :=
  ⟨h 0 a rfl, h 1 b rfl, h 2 c rfl, h 3 d rfl⟩

end Sys2Proof.Machine
end

section
/-! SUPPORT. The statements about the rows of the PK operations, format by format (R175 to R191). -/

namespace Sys2Proof.Machine

/-- A PK operation whose row is groups of `L` bytes, behind a check of its rows that holds. -/
theorem pack_groups {i : Instr} {s : State} {ok : Bool} {g : Nat → List Byte} {n : Nat} (hk : siteOf i = .slot 6)
    (packed : packedBytes i s = needRows ok ((List.range n).flatMap g)) (held : ok = true) (L : Nat)
    (size : ∀ j, (g j).length = L) (row : RowWritable s (packedLength i s)) :
    ∃ t, exec i s = .next t ∧ OnlyRowWritten s t (packedLength i s) ∧ ∀ j, j < n → RowHolds s t (L * j) (g j) := by
  rw [needRows_of_true held] at packed
  obtain ⟨t, ran, only, holds⟩ := pack_completes hk packed row
  refine ⟨t, ran, only, fun j hj => ?_⟩
  have here := holds.group size hj
  rwa [Nat.zero_add] at here

/-- Settles O42: both rows are groups of four bytes, one group per pixel pair. -/
theorem pack8Bit422Results : Obligations.Pack8Bit422Results := by
  intro src422 s held row y u v
  have written := (rows422Written_iff src422 s).2 held
  constructor
  · obtain ⟨t, ran, only, groups⟩ := pack_groups (i := .pkYuyv src422) rfl rfl written 4 (fun _ => rfl) row
    exact ⟨t, ran, only, fun j hj => (groups j hj).four⟩
  · obtain ⟨t, ran, only, groups⟩ := pack_groups (i := .pkUyvy src422) rfl rfl written 4 (fun _ => rfl) row
    exact ⟨t, ran, only, fun j hj => (groups j hj).four⟩

/-- Settles O43: the row is groups of sixteen bytes, and a group is four words one after another. -/
theorem packV210Result : Obligations.PackV210Result := by
  intro src422 s held row y u v
  obtain ⟨t, ran, only, groups⟩ := pack_groups (i := .pkV210 src422) rfl rfl ((rows422Written_iff src422 s).2 held)
    16 (fun _ => rfl) row
  refine ⟨t, ran, only, fun g hg => ?_⟩
  have group := groups g hg
  rw [groupV210, rowHolds_append, rowHolds_append, rowHolds_append] at group
  obtain ⟨⟨⟨word0, word1⟩, word2⟩, word3⟩ := group
  exact ⟨word0.le32, word1.le32, word2.le32, word3.le32⟩

/-- At W = 8 the alpha byte is AR's, or 0xFF without an alpha channel (R177). -/
theorem byteOf_alphaAt {s : State} (depth : pOut s = 8) (alpha : Bool) (i : Nat) :
    byteOf (alphaAt alpha s i) = if alpha then BitVec.ofInt 8 (elem s.ar i) else 0xFF := by
  cases alpha
  · rw [alphaAt, depth]; rfl
  · rfl

/-- Settles O44: both rows are groups of four bytes, one group per pixel. -/
theorem pack8Bit444Results : Obligations.Pack8Bit444Results := by
  intro alpha s held heldAlpha row depth y u v a
  have written := (rowsAlphaWritten_iff alpha s).2 ⟨held, heldAlpha⟩
  have alphaByte (j : Nat) : byteOf (alphaAt alpha s j) = a j := byteOf_alphaAt depth alpha j
  constructor
  · obtain ⟨t, ran, only, groups⟩ := pack_groups (i := .pkV408 alpha) rfl rfl written 4 (fun _ => rfl) row
    refine ⟨t, ran, only, fun j hj => ?_⟩
    rw [← alphaByte]
    exact (groups j hj).four
  · obtain ⟨t, ran, only, groups⟩ := pack_groups (i := .pkAyuv alpha) rfl rfl written 4 (fun _ => rfl) row
    refine ⟨t, ran, only, fun j hj => ?_⟩
    rw [← alphaByte]
    exact (groups j hj).four

/-- The samples of a plane of R185 that stands from byte `2 * m` on. -/
theorem RowHolds.plane {s t : State} {m n : Nat} {row : Row} (h : RowHolds s t (2 * m) (planeP16 s n row)) {i : Nat}
    (hi : i < n) : rowLe16 s t (2 * (m + i)) = up16 (pOut s) (elem row i) := by
  rw [Nat.mul_add]
  exact (RowHolds.group h (fun _ => rfl) hi).le16

/-- Settles O45: the row is three planes one after another, and AR's as a fourth with an alpha channel. -/
theorem packP16Result : Obligations.PackP16Result := by
  intro alpha s wd wc n held0 held1 held2 heldAlpha row
  have packed : packedBytes (.pkP16 alpha) s = .ok _ := needRows_of_true (by
    simp only [Bool.and_eq_true, written_eq, alphaWritten_iff]
    exact ⟨⟨⟨held0, held1⟩, held2⟩, heldAlpha⟩) _
  obtain ⟨t, ran, only, holds⟩ := pack_completes (i := .pkP16 alpha) rfl packed row
  rw [rowHolds_append, rowHolds_append, rowHolds_append] at holds
  obtain ⟨⟨⟨plane0, plane1⟩, plane2⟩, planeA⟩ := holds
  simp only [List.length_append, planeP16_length, Nat.zero_add] at plane1 plane2 planeA
  refine ⟨t, ran, only, fun i hi => ?_, fun i hi => plane1.plane hi, fun i hi => ?_, fun present i hi => ?_⟩
  · have := RowHolds.plane (m := 0) plane0 hi
    rwa [Nat.zero_add] at this
  · rw [← Nat.mul_add] at plane2
    exact plane2.plane hi
  · subst present
    rw [← Nat.mul_add, ← Nat.mul_add, Nat.add_assoc, ← Nat.two_mul] at planeA
    exact planeA.plane hi

/-- A 10-bit RGB row, read word by word in the byte order of its pixels. -/
theorem packRgb10_words {i : Instr} {s : State} {pixel : Int → Int → Int → List Byte}
    {word : State → State → Nat → Word} {value : Nat → Word} (hk : siteOf i = .slot 6)
    (packed : packedBytes i s = bytesRgb10 pixel s) (length : packedLength i s = 4 * rowWidth s)
    (size : ∀ r g b, (pixel r g b).length = 4)
    (reads : ∀ t k j, RowHolds s t k (pixel (elem s.cr.k0 j) (elem s.cr.k1 j) (elem s.cr.k2 j)) → word s t k = value j)
    (held : ComponentsHeld s (rowWidth s)) (row : RowWritable s (4 * rowWidth s)) :
    ∃ t, exec i s = .next t ∧ OnlyRowWritten s t (4 * rowWidth s) ∧
      ∀ j, j < rowWidth s → word s t (4 * j) = value j := by
  rw [← length] at row ⊢
  obtain ⟨t, ran, only, groups⟩ := pack_groups hk packed ((rows444Written_iff s).2 held) 4 (fun _ => size _ _ _) row
  exact ⟨t, ran, only, fun j hj => reads t (4 * j) j (groups j hj)⟩

/-- Settles O46: each row is one word per pixel, least or most significant byte first. -/
theorem packRgb10Results : Obligations.PackRgb10Results := by
  intro s held row r g b packs
  exact ⟨packRgb10_words rfl rfl rfl (fun _ _ _ => rfl) (fun _ _ _ => RowHolds.le32) held row,
    packRgb10_words rfl rfl rfl (fun _ _ _ => rfl) (fun _ _ _ => RowHolds.le32) held row,
    packRgb10_words rfl rfl rfl (fun _ _ _ => rfl) (fun _ _ _ => RowHolds.le32) held row,
    packRgb10_words rfl rfl rfl (fun _ _ _ => rfl) (fun _ _ _ => RowHolds.be32) held row,
    packRgb10_words rfl rfl rfl (fun _ _ _ => rfl) (fun _ _ _ => RowHolds.be32) held row⟩

/-- Settles O47: the row is groups of eight bytes, and a group is four 16-bit samples one after another. -/
theorem packB64aResult : Obligations.PackB64aResult := by
  intro alpha s held heldAlpha row
  obtain ⟨t, ran, only, groups⟩ := pack_groups (i := .pkB64a alpha) rfl rfl
    ((rowsAlphaWritten_iff alpha s).2 ⟨held, heldAlpha⟩) 8 (fun _ => rfl) row
  refine ⟨t, ran, only, fun i hi => ?_⟩
  have group := groups i hi
  rw [rowHolds_append, rowHolds_append, rowHolds_append] at group
  obtain ⟨⟨⟨alphaWord, red⟩, green⟩, blue⟩ := group
  exact ⟨alphaWord.be16, red.be16, green.be16, blue.be16⟩

end Sys2Proof.Machine
end

section
/-! SUPPORT. The host's writes of coefficients and output bytes, and what they leave of a PK operation's row (R78, R274,
R275). -/

namespace Sys2Proof.Machine

theorem step_coefWrite {s : State} {rest : List Input} {a : Word} {v : Sample} (h : s.inputs = .coefWrite a v :: rest) :
    step s = hostCoefWrite a v { s with inputs := rest } := by
  unfold step takeStep
  rw [h]

theorem step_outWrite {s : State} {rest : List Input} {a : Word} {v : Byte} (h : s.inputs = .outWrite a v :: rest) :
    step s = hostOutWrite a v { s with inputs := rest } := by
  unfold step takeStep
  rw [h]

theorem hostOutWrite_completes (a : Word) (v : Byte) (s : State) : ∃ t, hostOutWrite a v s = .next t := by
  unfold hostOutWrite
  split <;> exact ⟨_, rfl⟩

/-- A unit written at the address of a word, read at the address of a word. -/
theorem Memory.read_write_word {n : Nat} (m : Memory n) (a : Word) (v : BitVec n) (b : Word) :
    (m.write a.toNat v).read b.toNat = if b = a then v else m.read b.toNat := by
  rw [Memory.read_write]
  exact if_congr ⟨fun h => (BitVec.eq_of_toNat_eq h).symm, fun h => by rw [h]⟩ rfl rfl

/-- A sample that the host writes while BUSY may be read as its new value or as any it could be read as before; of every
other sample nothing changes (R78, U9). -/
theorem heldSamples_overwrite {s t : State} {a : Word} {v : Sample} (coef : t.coef = s.coef.write a.toNat v)
    (records : t.overwritten = (a.toNat, s.coef.read a.toNat) :: s.overwritten) (b : Word) :
    heldSamples t b = if b = a then v.toInt :: heldSamples s b else heldSamples s b := by
  unfold heldSamples earlierSamples coefSample
  rw [coef, records, Memory.read_write_word]
  by_cases same : b = a
  · subst same
    simp
  · have other : a.toNat ≠ b.toNat := fun h => same (BitVec.eq_of_toNat_eq h.symm)
    simp [same, other]

/-- Settles O22: a unit written is read back at its address alone; a PK operation goes on, and the host's bytes are the
only ones of its row that may differ from the packed ones. -/
theorem hostMemoryWrites : Obligations.HostMemoryWrites := by
  refine ⟨fun s rest a v head => ?_, fun s rest a v head => ?_, fun i s bytes hk packed answered => ?_⟩
  · refine ⟨_, step_coefWrite head, rfl, fun b => ?_, fun _ => rfl, fun busy b => ?_, fun settled => if_neg settled⟩
    · show ((s.coef.write a.toNat v).read b.toNat).toInt = _
      rw [Memory.read_write_word, apply_ite BitVec.toInt]
      rfl
    · exact heldSamples_overwrite rfl (if_pos busy) b
  · obtain ⟨t, ran⟩ := hostOutWrite_completes a v { s with inputs := rest }
    obtain ⟨x, after, value, record⟩ := hostOutWrite_next ran
    have out (b : Word) : outByte t b = if b = a then x else outByte s b := by
      rw [outByte, after]
      exact Memory.read_write_word s.out a x b
    refine ⟨t, (step_outWrite head).trans ran, by rw [after], fun b other => ?_, fun b => by rw [after]; rfl,
      fun free => ?_, fun busy b => ?_, fun settled => record.trans (if_neg settled)⟩
    · rw [out, if_neg other]
    · rw [out, if_pos rfl]
      exact value free
    · rw [record.trans (if_pos busy)]
      exact List.mem_cons
  · obtain ⟨t, ran, only, bytewise⟩ := pack_answered hk packed answered
    refine ⟨t, ran, only, fun k hk alone => ?_⟩
    have byte := List.getElem?_eq_getElem hk
    rw [byte, bytewise k _ byte alone]

end Sys2Proof.Machine
end

section
/-! SUPPORT. The slots of a checked strip and how many steps its rows take, and the format whose row a PK operation
writes (R97, R99, R226, R228). -/

namespace Sys2Proof.Machine

/-! ### The PK operation of a format (R96, R97) -/

/-- The code of a format (R97). -/
def formatCode : Format → BitVec 8
  | .yuyv => 0x10
  | .uyvy => 0x11
  | .v210 => 0x12
  | .v408 => 0x20
  | .ayuv => 0x21
  | .p16 => 0x50
  | .rg30 => 0x80
  | .ar10 => 0x81
  | .ab10 => 0x82
  | .r210 => 0x83
  | .dpx0 => 0x84
  | .b64a => 0x90

theorem eq_formatCode {code : BitVec 8} {f : Format} (h : formatOf code = some f) : code = formatCode f := by
  have codes : ∀ c : BitVec 8, (formatOf c).all (fun f => decide (c = formatCode f)) = true := by decide
  have := codes code
  rw [h] at this
  exact of_decide_eq_true this

/-- The PK operation that packs rows of a format, its operand read from the strip control word. -/
def packOf (scw : Word) : Format → Instr
  | .yuyv => .pkYuyv (scwSrc422 scw)
  | .uyvy => .pkUyvy (scwSrc422 scw)
  | .v210 => .pkV210 (scwSrc422 scw)
  | .v408 => .pkV408 (scwAlpha scw)
  | .ayuv => .pkAyuv (scwAlpha scw)
  | .p16 => .pkP16 (scwAlpha scw)
  | .rg30 => .pkRg30
  | .ar10 => .pkAr10
  | .ab10 => .pkAb10
  | .r210 => .pkR210
  | .dpx0 => .pkDpx0
  | .b64a => .pkB64a (scwAlpha scw)

/-- The field that the match of slot 6 fixes is FORMAT (R96). -/
theorem and_format_mask (w : Word) : w &&& (0x00FF0000 : Word) = (scwFormat w).setWidth 32 <<< 16 := by
  apply BitVec.eq_of_getLsbD_eq
  intro i hi
  interval_cases i <;> simp [scwFormat]

/-- Slot 6 of a word with a format holds that format's PK operation (R96, R97). -/
theorem decode_slot6_format {w : Word} {f : Format} (h : formatOf (scwFormat w) = some f) :
    decode (.slot 6) w = .ok (packOf w f) := by
  rw [decode_slot6, and_format_mask, eq_formatCode h]
  cases f <;> rfl

/-- The row a format's PK operation writes has ROWBYTES bytes (R99). -/
theorem packedLength_packOf (f : Format) (s : State) : packedLength (packOf s.scw f) s = rowBytes f s := by
  cases f with
  | yuyv | uyvy => simp only [packOf, packedLength, rowBytes, rowWidth]; omega
  | _ => rfl

/-! ### Walking over the filled slots (R226) -/

/-- How many filled slots there are from `k` on: the steps that are left of a row at STAGE `k`. -/
def slotsLeft (scw : Word) (k : BitVec 3) : Nat :=
  (allSlots.toFinset.filter fun j => k ≤ j ∧ slotFilled scw j = true).card

theorem mem_allSlots (k : BitVec 3) : k ∈ allSlots := by revert k; decide

theorem slotsLeft_seven (scw : Word) : slotsLeft scw 7 = 1 := by
  rw [slotsLeft, Finset.card_eq_one]
  refine ⟨7, ?_⟩
  ext j
  simp only [Finset.mem_filter, List.mem_toFinset, mem_allSlots, true_and, Finset.mem_singleton]
  constructor
  · rintro ⟨last, -⟩
    bv_omega
  · rintro rfl
    exact ⟨BitVec.le_refl 7, slotFilled_seven scw⟩

/-- From a filled slot but the last the walk passes one slot. -/
theorem slotsLeft_nextSlot {scw : Word} {k : BitVec 3} (early : k ≠ 7) (filled : slotFilled scw k = true) :
    slotsLeft scw k = slotsLeft scw (nextSlot scw k) + 1 := by
  obtain ⟨later, filled', least⟩ := nextSlot_spec scw early
  rw [slotsLeft, slotsLeft, ← Finset.card_insert_of_notMem (a := k)]
  · congr 1
    ext j
    simp only [Finset.mem_filter, Finset.mem_insert, List.mem_toFinset, mem_allSlots, true_and]
    constructor
    · rintro ⟨from_k, hj⟩
      by_cases same : j = k
      · exact .inl same
      · exact .inr ⟨least j (by bv_omega) hj, hj⟩
    · rintro (rfl | ⟨from_next, hj⟩)
      · exact ⟨BitVec.le_refl j, filled⟩
      · exact ⟨by bv_omega, hj⟩
  · simp only [Finset.mem_filter, not_and]
    intro _ back
    bv_omega

/-- A row of a checked strip takes `5 + m` steps (R228). -/
theorem slotsLeft_zero {s : State} (hc : Checked s) : slotsLeft s.scw 0 = 5 + optionalSlots s.scw := by
  obtain ⟨f, named, -⟩ := hc.named
  have six : slotFilled s.scw 6 = true := slotFilled_iff.2 ⟨_, decode_slot6_format named⟩
  have zero := slotFilled_zero hc.synmode
  have every (j : BitVec 3) : 0 ≤ j := by bv_omega
  rw [slotsLeft, Finset.card_filter, List.sum_toFinset _ (by decide : allSlots.Nodup)]
  simp only [allSlots, List.map_cons, List.map_nil, every, true_and, zero, slotFilled_one, slotFilled_two, six,
    slotFilled_seven, optionalSlots]
  cases slotFilled s.scw 3 <;> cases slotFilled s.scw 4 <;> cases slotFilled s.scw 5 <;> rfl

end Sys2Proof.Machine
end

section
/-! SUPPORT. A strip on a platform without bus errors runs to DONE: what each of its steps keeps, and how many are left
(R215, R226, R228). -/

namespace Sys2Proof.Machine

/-! ### Operations without bus errors (R246) -/

theorem readsAnswered_of_no_errors {s : State} (quiet : s.params.busErrors = false) : ReadsAnswered s :=
  fun _ _ _ _ => by simp [coefFails, quiet]

theorem writesAnswered_of_no_errors {s : State} (quiet : s.params.busErrors = false) (n : Nat) : WritesAnswered s n :=
  fun _ _ => by simp [outFails, quiet]

/-- Without bus errors a stage operation other than ADV leaves STATE alone. -/
theorem exec_phase_of_no_errors {i : Instr} {k : BitVec 3} {s t : State} (quiet : s.params.busErrors = false)
    (hk : siteOf i = .slot k) (hi : i ≠ .adv) (ran : exec i s = .next t) : t.phase = s.phase := by
  obtain frame | ⟨rfl | rfl, -⟩ := stage_end hk hi ran
  · rw [frame.shape]
  · obtain ⟨finish, syn⟩ := exec_syn hk
    rw [syn] at ran
    obtain ⟨-, ⟨-, rfl⟩ | ⟨failing, -⟩⟩ := synthesize_next ran
    · rfl
    · exact absurd ((failingReads_nil_iff s).2 (readsAnswered_of_no_errors quiet)) failing
  · rw [exec_pack hk] at ran
    obtain ⟨bytes, -, ⟨-, rfl⟩ | ⟨failing, -⟩⟩ := storeRow_next ran
    · rfl
    · exact absurd (writesAnswered_of_no_errors quiet _) failing

theorem stageStep_ne_fault {s t : State} (quiet : s.params.busErrors = false) (busy : s.phase = .busy)
    (ran : stageStep s = .next t) : t.phase ≠ .fault := by
  obtain ⟨i, u, decoded, done, rfl⟩ | ⟨-, rfl⟩ := stageStep_next ran
  · rw [advanceStage_phase]
    by_cases adv : i = .adv
    · subst adv
      cases done
      dsimp only
      rw [busy]
      split <;> nofun
    · rw [exec_phase_of_no_errors quiet (siteOf_decode decoded) adv done, busy]
      nofun
  · rw [busy]
    nofun

/-- Without bus errors a PK operation of a checked strip changes OUT inside its row of ROWBYTES bytes alone (R73,
R99). -/
theorem pack_outside_row {i : Instr} {s u : State} {f : Format} (quiet : s.params.busErrors = false)
    (named : format s = some f) (decoded : decode (.slot 6) s.scw = .ok i) (ran : exec i s = .next u) {a : Word}
    (outside : rowBytes f s ≤ distance s.outPtr a) : outByte u a = outByte s a := by
  rw [decode_slot6_format named] at decoded
  cases decoded
  have hk : siteOf (packOf s.scw f) = .slot 6 := by cases f <;> rfl
  rw [exec_pack hk] at ran
  obtain ⟨bytes, packed, ⟨-, rfl⟩ | ⟨failing, -⟩⟩ := storeRow_next ran
  · have length := packedBytes_length packed
    have short : bytes.length ≤ 2 ^ 32 := by rw [length]; exact packedLength_le _ s
    rw [packedLength_packOf] at length
    exact (sameOutsideRow_writeRow _ s bytes short).1 a (by rw [length]; exact outside)
  · exact absurd (writesAnswered_of_no_errors quiet _) failing

/-- An address outside the strip's output rows is outside the current one (R66). -/
theorem outside_current_row {s : State} {f : Format} (placed : PointersPlaced s) (below : s.row < height s)
    (named : format s = some f) {a : Word} (outside : inOutRows s a = false) :
    rowBytes f s ≤ distance s.outPtr a := by
  unfold inOutRows inFirstRows at outside
  rw [named] at outside
  have here := List.any_eq_false.1 outside s.row.toNat (List.mem_range.2 below)
  rw [decide_eq_true_eq, not_lt, BitVec.ofNat_toNat] at here
  rw [placed.1]
  exact here

/-! ### What the steps of a strip keep -/

/-- Between `s` and `t` a strip has run: the block's own parts have changed, but not WRERR, and OUT in the strip's rows
alone. -/
structure StripFrame (s t : State) : Prop where
  block : BlockFrame s t
  wrerr : t.wrerr = s.wrerr
  out : ∀ a, inOutRows s a = false → outByte t a = outByte s a

theorem BlockFrame.trans {s t u : State} (first : BlockFrame s t) (second : BlockFrame t u) : BlockFrame s u := by
  unfold BlockFrame at first second ⊢
  rw [second, first]

theorem BlockFrame.inOutRows {s t : State} (h : BlockFrame s t) : inOutRows t = inOutRows s := by
  unfold BlockFrame at h
  rw [h]
  rfl

theorem BlockFrame.height {s t : State} (h : BlockFrame s t) : height t = height s := by
  unfold BlockFrame at h
  rw [h]
  rfl

theorem BlockFrame.scw {s t : State} (h : BlockFrame s t) : t.scw = s.scw := by
  unfold BlockFrame at h
  rw [h]

theorem StripFrame.trans {s t u : State} (first : StripFrame s t) (second : StripFrame t u) : StripFrame s u where
  block := first.block.trans second.block
  wrerr := second.wrerr.trans first.wrerr
  out a outside := (second.out a (by rw [first.block.inOutRows]; exact outside)).trans (first.out a outside)

/-- A strip that runs on a platform without bus errors, with nothing pending from outside. -/
structure Running (s : State) : Prop where
  busy : s.phase = .busy
  inv : StripInv s
  alone : s.inputs = []
  quiet : s.params.busErrors = false

/-- The strip has run to its end (R215, R222). -/
structure Finished (t : State) : Prop where
  phase : t.phase = .done
  row : t.row = height t
  stage : t.stage = 0
  placed : PointersPlaced t

/-- The steps that are left of a running strip: those of the rows after this one, and of this row. -/
def stepsLeft (s : State) : Nat :=
  ((height s).toNat - s.row.toNat - 1) * slotsLeft s.scw 0 + slotsLeft s.scw s.stage

/-- An operation of a running strip other than ADV changes OUT in the strip's rows alone. -/
theorem stripFrame_operation {s u : State} {i : Instr} (run : Running s)
    (decoded : decode (.slot s.stage) s.scw = .ok i) (ran : exec i s = .next u) (frame : SlotFrame s.stage s u)
    (k : BitVec 3) : StripFrame s { u with stage := k } := by
  obtain ⟨checked, below, -, placed, -⟩ := run.inv run.busy
  refine ⟨?_, by rw [frame.shape], fun a outside => ?_⟩
  · unfold BlockFrame
    rw [frame.shape]
  show outByte u a = outByte s a
  by_cases pack : s.stage = 6
  · obtain ⟨f, named, -⟩ := (checked_of_none checked).named
    rw [pack] at decoded
    exact pack_outside_row run.quiet named decoded ran (outside_current_row placed below named outside)
  · rw [outByte, frame.out pack]
    rfl

/-- The row advance: the strip is finished with the last row, else the next row's steps are left (R222). -/
theorem running_advance {s t : State} (run : Running s) (last : s.stage = 7) (after : execAdv s = .next t) :
    StripFrame s t ∧ (t.phase = .busy ∧ stepsLeft s = stepsLeft t + 1 ∨ Finished t ∧ stepsLeft s = 1) := by
  obtain ⟨-, below, -, placed, -⟩ := run.inv run.busy
  have next : (s.row + 1).toNat = s.row.toNat + 1 := by bv_omega
  have placed' := pointersPlaced_advance placed (by bv_omega) after
  cases after
  refine ⟨⟨rfl, rfl, fun _ _ => rfl⟩, ?_⟩
  rw [stepsLeft, last, slotsLeft_seven]
  by_cases end_row : s.row + 1 = height s
  · refine .inr ⟨⟨if_pos end_row, end_row, rfl, placed'⟩, ?_⟩
    have none_left : (height s).toNat - s.row.toNat - 1 = 0 := by rw [← end_row, next]; omega
    rw [none_left, Nat.zero_mul]
  · refine .inl ⟨(if_neg end_row).trans run.busy, ?_⟩
    show _ = ((height s).toNat - (s.row + 1).toNat - 1) * slotsLeft s.scw 0 + slotsLeft s.scw 0 + 1
    have more : (height s).toNat - s.row.toNat - 1 = (height s).toNat - (s.row + 1).toNat - 1 + 1 := by bv_omega
    rw [more, Nat.succ_mul]

/-- A step of a running strip: one step less is left, or it was the last one. -/
theorem running_step {s : State} (run : Running s) :
    ∃ t, step s = .next t ∧ StripFrame s t ∧
      (Running t ∧ stepsLeft s = stepsLeft t + 1 ∨ Finished t ∧ stepsLeft s = 1) := by
  obtain ⟨t, ran⟩ := orchestrate_completes run.inv
  have stepped : step s = .next t := by
    unfold step takeStep
    rw [run.alone]
    exact ran
  have going (frame : StripFrame s t) (busy : t.phase = .busy) : Running t := by
    obtain ⟨-, params, -, inputs, -⟩ := frame.block.outside
    exact ⟨busy, stepKeepsStripInvariant s t run.inv stepped, by rw [inputs]; exact run.alone, by
      rw [params]; exact run.quiet⟩
  refine ⟨t, stepped, ?_⟩
  rw [orchestrate, if_pos run.busy] at ran
  obtain ⟨-, -, filled, -, -⟩ := run.inv run.busy
  cases stageStep_cases run.busy ran with
  | advance last after =>
    obtain ⟨frame, ⟨busy, left⟩ | finished⟩ := running_advance run last after
    · exact ⟨frame, .inl ⟨going frame busy, left⟩⟩
    · exact ⟨frame, .inr finished⟩
  | operation i u decoded early done frame after =>
    subst after
    have strip := stripFrame_operation run decoded done frame (nextSlot s.scw s.stage)
    refine ⟨strip, .inl ⟨going strip (by rw [frame.shape]; exact run.busy), ?_⟩⟩
    rw [frame.shape]
    show _ = ((height s).toNat - s.row.toNat - 1) * slotsLeft s.scw 0 + slotsLeft s.scw (nextSlot s.scw s.stage) + 1
    rw [stepsLeft, slotsLeft_nextSlot early filled, Nat.add_assoc]
  | busError _ u ch buf _ after => exact absurd (by rw [after]; rfl) (stageStep_ne_fault run.quiet run.busy ran)
  | skip empty _ => simp [filled] at empty

/-! ### The whole run -/

theorem run_succ {M : Host.Core} {s t : M.State} (h : M.step s = .next t) (n : Nat) : M.run (n + 1) s = M.run n t := by
  rw [Host.Core.run, h]

/-- A running strip is finished when its steps have been taken. -/
theorem running_finishes : ∀ (n : Nat) {s : State}, Running s → stepsLeft s = n →
    ∃ t, Host.Core.run Sys2Proof.core n s = .next t ∧ StripFrame s t ∧ Finished t := by
  intro n
  induction n with
  | zero =>
    intro s run left
    obtain ⟨t, -, -, ⟨-, more⟩ | ⟨-, more⟩⟩ := running_step run <;> omega
  | succ n ih =>
    intro s run left
    obtain ⟨t, stepped, frame, ⟨run', more⟩ | ⟨finished, one⟩⟩ := running_step run
    · obtain ⟨u, ran, frame', finished⟩ := ih run' (by omega)
      exact ⟨u, (run_succ (M := Sys2Proof.core) stepped n).trans ran, frame.trans frame', finished⟩
    · obtain rfl : n = 0 := by omega
      exact ⟨t, run_succ (M := Sys2Proof.core) stepped 0, frame, finished⟩

/-- At its first position HEIGHT rows of `5 + m` steps are left of a strip (R228). -/
theorem stepsLeft_first {s : State} (run : Running s) (row : s.row = 0) (stage : s.stage = 0) :
    stepsLeft s = (height s).toNat * (5 + optionalSlots s.scw) := by
  obtain ⟨checked, below, -⟩ := run.inv run.busy
  rw [stepsLeft, stage, row, slotsLeft_zero (checked_of_none checked), ← Nat.succ_mul]
  congr 1
  bv_omega

/-- At DONE the pointers of the channels in use, and OUT_PTR, stand HEIGHT pitches after their bases (R222). -/
theorem Finished.pointers {s t : State} (done : Finished t) (frame : BlockFrame s t) :
    t.outPtr = s.outBase + (height s).setWidth 32 * s.outPitch ∧
      ∀ ch, inUse s ch = true → t.lpPtr.get ch = s.lpBase.get ch + (height s).setWidth 32 * s.lpPitch.get ch ∧
        t.hpPtr.get ch = s.hpBase.get ch + (height s).setWidth 32 * s.hpPitch.get ch := by
  obtain ⟨out, channels⟩ := done.placed
  obtain ⟨scw, -, -, -, -, -, -, outBase, outPitch, lpBase, hpBase, lpPitch, hpPitch, -⟩ := frame.sameDescriptors
  rw [done.row, frame.height, outBase, outPitch] at out
  refine ⟨out, fun ch used => ?_⟩
  have used' : inUse t ch = true := by
    unfold inUse channelCount at used ⊢
    rw [scw]
    exact used
  have pointers := channels ch
  rwa [if_pos used', if_pos used', done.row, frame.height, lpBase, hpBase, lpPitch, hpPitch] at pointers

/-- Settles O60: by induction on the steps that are left, the strip finishes within its frame; at DONE the placed
pointers stand HEIGHT pitches after their bases. -/
theorem stripRunsToDone : Obligations.StripRunsToDone := by
  intro s inv busy row stage alone quiet
  have run : Running s := ⟨busy, inv, alone, quiet⟩
  obtain ⟨t, ran, frame, done⟩ := running_finishes _ run (stepsLeft_first run row stage)
  obtain ⟨out, channels⟩ := done.pointers frame.block
  have samples (a : Word) : coefSample t a = coefSample s a := by
    unfold coefSample
    rw [frame.block.outside.1]
  exact ⟨t, ran, done.phase, done.row.trans frame.block.height, done.stage, frame.block.sameDescriptors, frame.wrerr,
    out, channels, samples, frame.out⟩

end Sys2Proof.Machine
end

section
/-! SUPPORT. The opcode map as an encoding (R87, R90, R95, R96): no word meets two of its rows, and a word decodes to an
operation exactly when the operation's own bits stand in it. -/

namespace Sys2Proof.Machine

/-! ### At most one row (R95) -/

/-- The rows stand at different places, or their patterns differ in a bit that both masks fix. -/
def Apart (r q : OpRow) : Prop := r.site ≠ q.site ∨ r.pattern &&& q.mask ≠ q.pattern &&& r.mask

theorem hit_iff (r : OpRow) (site : Site) (w : Word) :
    r.hit site w = true ↔ r.site = site ∧ w &&& r.mask = r.pattern := by
  rw [OpRow.hit, Bool.and_eq_true, decide_eq_true_eq, decide_eq_true_eq]

theorem Apart.not_both {r q : OpRow} (apart : Apart r q) {site : Site} {w : Word} (hr : r.hit site w = true) :
    q.hit site w = false := by
  rw [← Bool.not_eq_true]
  intro hq
  obtain ⟨atSite, met⟩ := (hit_iff r site w).1 hr
  obtain ⟨atSite', met'⟩ := (hit_iff q site w).1 hq
  obtain sites | patterns := apart
  · exact sites (atSite.trans atSite'.symm)
  · rw [← met, ← met', BitVec.and_assoc, BitVec.and_assoc, BitVec.and_comm r.mask] at patterns
    exact patterns rfl

theorem opTable_apart : opTable.Pairwise Apart := by
  unfold Apart
  decide

/-- Settles O3: every two rows of the map stand apart, pair by pair. -/
theorem atMostOneRowMatches : Obligations.AtMostOneRowMatches :=
  opTable_apart.imp fun apart _ _ => apart.not_both

/-- A search finds the element that meets its test when no other does. -/
theorem find?_of_pairwise {α : Type} {l : List α} {p : α → Bool} {a : α}
    (one : l.Pairwise fun x y => p x = true → p y = false) (ha : a ∈ l) (pa : p a = true) : l.find? p = some a := by
  obtain ⟨before, after, rfl⟩ := List.append_of_mem ha
  refine List.find?_eq_some_iff_append.2 ⟨pa, before, after, rfl, fun x hx => ?_⟩
  have clash := (List.pairwise_append.1 one).2.2 x hx a List.mem_cons_self
  cases hp : p x with
  | false => rfl
  | true => rw [clash hp] at pa; cases pa

/-- A word that meets a row of the map decodes at the row's place to what the row builds. -/
theorem decode_of_row {r : OpRow} (hr : r ∈ opTable) {w : Word} (met : w &&& r.mask = r.pattern) :
    decode r.site w = .ok (r.build w) := by
  have one : opTable.Pairwise fun a b => a.hit r.site w = true → b.hit r.site w = false :=
    opTable_apart.imp fun apart => apart.not_both
  rw [decode_eq, decodeRows, find?_of_pairwise one hr ((hit_iff r _ w).2 ⟨rfl, met⟩)]

/-! ### The bits an operation owns (R90, R96) -/

/-- The word carries the operation: the bits that the operation owns have its values. -/
def Carries (w : Word) (i : Instr) : Prop := w &&& encodeMask i = encodeBits i

theorem encodeBits_owned (i : Instr) : Laws.OwnBits.Statement i := by
  cases i
  exacts [Laws.OwnBits.nop, Laws.OwnBits.start, Laws.OwnBits.reset, Laws.OwnBits.synStd _, Laws.OwnBits.synLim _ _,
    Laws.OwnBits.synDsc _, Laws.OwnBits.rsc _, Laws.OwnBits.rscD _, Laws.OwnBits.ctPass, Laws.OwnBits.ctDiff,
    Laws.OwnBits.ctMtxCg601, Laws.OwnBits.ctMtxVs601, Laws.OwnBits.ctMtxCg709, Laws.OwnBits.ctMtxVs709,
    Laws.OwnBits.ctAlpha, Laws.OwnBits.ssPair, Laws.OwnBits.ssCw, Laws.OwnBits.pkYuyv _, Laws.OwnBits.pkUyvy _,
    Laws.OwnBits.pkV210 _, Laws.OwnBits.pkV408 _, Laws.OwnBits.pkAyuv _, Laws.OwnBits.pkP16 _, Laws.OwnBits.pkRg30,
    Laws.OwnBits.pkAr10, Laws.OwnBits.pkAb10, Laws.OwnBits.pkR210, Laws.OwnBits.pkDpx0, Laws.OwnBits.pkB64a _,
    Laws.OwnBits.adv]

/-- An operation put into any word is carried by it. -/
theorem carries_encodeInto (i : Instr) (w : Word) : Carries (encodeInto i w) i := by
  have others : w &&& ~~~encodeMask i &&& encodeMask i = 0#32 := by
    rw [BitVec.and_assoc, BitVec.and_comm (~~~_), BitVec.and_not_self]
    exact BitVec.and_zero
  have own : encodeBits i &&& encodeMask i = encodeBits i := encodeBits_owned i
  rw [Carries, encodeInto, BitVec.and_or_distrib_right, others, own, BitVec.zero_or]

/-- An operation put into a word that carries it changes nothing. -/
theorem Carries.encodeInto_eq {w : Word} {i : Instr} (h : Carries w i) : encodeInto i w = w := by
  rw [encodeInto, ← show w &&& encodeMask i = encodeBits i from h, ← BitVec.and_or_distrib_left, BitVec.or_comm,
    BitVec.or_not_self, BitVec.and_allOnes]

/-! ### From the word to the operation -/

/-- A mask widened by the bit of an operand reads the bit too. -/
theorem and_or_bit {w m p : Word} (h : w &&& m = p) (k : Nat) :
    w &&& (m ||| bitAt true k) = p ||| bitAt (w.getLsbD k) k := by
  rw [BitVec.and_or_distrib_left, h, and_bit]

/-- A row of the map builds operations that the words it is met by carry. -/
def RowCarried (r : OpRow) : Prop := ∀ w, w &&& r.mask = r.pattern → Carries w (r.build w)

theorem and_limbits (w : Word) : w &&& (0x000000F0 : Word) = (scwLimbits w).setWidth 32 <<< 4 := by
  apply BitVec.eq_of_getLsbD_eq
  intro i hi
  interval_cases i <;> simp [scwLimbits]

theorem synLim_carried {w : Word} (h : w &&& 0x00000003 = 0x00000001) :
    Carries w (.synLim (scwDiv2rnd w) (scwLimbits w)) := by
  have masks : (0x000000FB : Word) = 0x00000003 ||| bitAt true 3 ||| 0x000000F0 := rfl
  rw [Carries, encodeMask, masks, BitVec.and_or_distrib_left, and_or_bit h, and_limbits]
  rfl

theorem commandRows_carried : ∀ r ∈ commandRows, RowCarried r := by
  simp only [commandRows, List.forall_mem_cons]
  exact ⟨fun _ h => h, fun _ h => h, fun _ h => h, by simp⟩

theorem filterRows_carried : ∀ r ∈ filterRows, RowCarried r := by
  simp only [filterRows, List.forall_mem_cons]
  exact ⟨fun _ h => and_or_bit h 3, fun _ h => synLim_carried h, fun _ h => and_or_bit h 2,
    fun _ h => and_or_bit h 15, fun _ h => and_or_bit h 15, by simp⟩

theorem colorRows_carried : ∀ r ∈ colorRows, RowCarried r := by
  simp only [colorRows, List.forall_mem_cons]
  exact ⟨fun _ h => h, fun _ h => h, fun _ h => h, fun _ h => h, fun _ h => h, fun _ h => h, fun _ h => h, by simp⟩

theorem packRows_carried : ∀ r ∈ packRows, RowCarried r := by
  simp only [packRows, List.forall_mem_cons]
  exact ⟨fun _ h => h, fun _ h => h, fun _ h => and_or_bit h 10, fun _ h => and_or_bit h 10,
    fun _ h => and_or_bit h 10, fun _ h => and_or_bit h 11, fun _ h => and_or_bit h 11, fun _ h => and_or_bit h 11,
    fun _ h => h, fun _ h => h, fun _ h => h, fun _ h => h, fun _ h => h, fun _ h => and_or_bit h 11, fun _ h => h,
    by simp⟩

/-- A word carries what it decodes to. -/
theorem carries_of_decode {site : Site} {w : Word} {i : Instr} (h : decode site w = .ok i) : Carries w i := by
  obtain ⟨r, hr, -, met, rfl⟩ := decode_ok_row h
  simp only [opTable, List.mem_append] at hr
  obtain ((hr | hr) | hr) | hr := hr
  · exact commandRows_carried r hr w met
  · exact filterRows_carried r hr w met
  · exact colorRows_carried r hr w met
  · exact packRows_carried r hr w met

/-- Settles O2: a word carries what it decodes to, so putting it in changes nothing. -/
theorem decodedOperationOwnsItsBits : Obligations.DecodedOperationOwnsItsBits := fun _ _ _ decoded =>
  ⟨siteOf_decode decoded, (carries_of_decode decoded).encodeInto_eq⟩

/-! ### From the operation to the word -/

/-- The row of an operation: constructors and rows stand in one order (R87, R96). -/
def rowOf (i : Instr) : OpRow := opTable[i.ctorIdx]'(by cases i <;> exact of_decide_eq_true rfl)

theorem rowOf_mem (i : Instr) : rowOf i ∈ opTable := List.getElem_mem _

theorem rowOf_site (i : Instr) : (rowOf i).site = siteOf i := by cases i <;> rfl

/-- An operation owns the bits that its match fixes, and its own bits meet the match, whatever its operands are. -/
theorem rowOf_owned (i : Instr) :
    encodeMask i &&& (rowOf i).mask = (rowOf i).mask ∧ encodeBits i &&& (rowOf i).mask = (rowOf i).pattern := by
  cases i with
  | synStd b | synDsc b | rsc b | rscD b => cases b <;> exact ⟨rfl, rfl⟩
  | pkYuyv b | pkUyvy b | pkV210 b | pkV408 b | pkAyuv b | pkP16 b | pkB64a b => cases b <;> exact ⟨rfl, rfl⟩
  | synLim b limbits => revert b limbits; decide
  | _ => exact ⟨rfl, rfl⟩

theorem Carries.meets_row {w : Word} {i : Instr} (h : Carries w i) : w &&& (rowOf i).mask = (rowOf i).pattern := by
  obtain ⟨within, met⟩ := rowOf_owned i
  rw [← within, ← BitVec.and_assoc, show w &&& encodeMask i = encodeBits i from h, met]

theorem Carries.synLim_fields {w : Word} {b : Bool} {l : BitVec 4} (h : Carries w (.synLim b l)) :
    scwSynmode w = 1 ∧ scwDiv2rnd w = b ∧ scwLimbits w = l := by
  have fields : ∀ (b : Bool) (l : BitVec 4), scwSynmode (encodeBits (.synLim b l)) = 1 ∧
      scwDiv2rnd (encodeBits (.synLim b l)) = b ∧ scwLimbits (encodeBits (.synLim b l)) = l := by decide
  have owned : w &&& 0x000000FB = encodeBits (.synLim b l) := h
  rw [scwSynmode, scwDiv2rnd, wordBit, scwLimbits, extractLsb'_of_masked owned 0 2, getLsbD_of_masked owned 3,
    extractLsb'_of_masked owned 4 4]
  exact fields b l

/-- The row of an operation reads the operands back from a word that carries it. -/
theorem Carries.build_row {w : Word} {i : Instr} (h : Carries w i) : (rowOf i).build w = i := by
  cases i with
  | synLim _ _ =>
    obtain ⟨-, div2rnd, limbits⟩ := h.synLim_fields
    exact congrArg₂ Instr.synLim div2rnd limbits
  | synStd b => cases b <;> exact congrArg Instr.synStd (getLsbD_of_masked h 3)
  | synDsc b => cases b <;> exact congrArg Instr.synDsc (getLsbD_of_masked h 2)
  | rsc b => cases b <;> exact congrArg Instr.rsc (getLsbD_of_masked h 15)
  | rscD b => cases b <;> exact congrArg Instr.rscD (getLsbD_of_masked h 15)
  | pkYuyv b => cases b <;> exact congrArg Instr.pkYuyv (getLsbD_of_masked h 10)
  | pkUyvy b => cases b <;> exact congrArg Instr.pkUyvy (getLsbD_of_masked h 10)
  | pkV210 b => cases b <;> exact congrArg Instr.pkV210 (getLsbD_of_masked h 10)
  | pkV408 b => cases b <;> exact congrArg Instr.pkV408 (getLsbD_of_masked h 11)
  | pkAyuv b => cases b <;> exact congrArg Instr.pkAyuv (getLsbD_of_masked h 11)
  | pkP16 b => cases b <;> exact congrArg Instr.pkP16 (getLsbD_of_masked h 11)
  | pkB64a b => cases b <;> exact congrArg Instr.pkB64a (getLsbD_of_masked h 11)
  | _ => rfl

/-- A word that carries an operation decodes to it at the operation's place. -/
theorem Carries.decodes {w : Word} {i : Instr} (h : Carries w i) : decode (siteOf i) w = .ok i := by
  rw [← rowOf_site, decode_of_row (rowOf_mem i) h.meets_row, h.build_row]

/-- Settles O1: an operation put into a word is carried by it, and a word decodes to what it carries. -/
theorem encodedOperationDecodesToItself : Obligations.EncodedOperationDecodesToItself := fun i w =>
  (carries_encodeInto i w).decodes

end Sys2Proof.Machine
end

section
/-! SUPPORT. The slots by the fields of the strip control word (R90, R96, R97), the slots a checked word fills (R91,
R95, R214), and the length of the row of slot 6 (R99). -/

namespace Sys2Proof.Machine

/-! ### Each slot by its fields (R96, the column "in words") -/

theorem eachMode (m : BitVec 2) : m = 0 ∨ m = 1 ∨ m = 2 ∨ m = 3 := by revert m; decide

theorem decode_slot0_fields (w : Word) : decode (.slot 0) w =
    if scwSynmode w = 0 then .ok (.synStd (w.getLsbD 3))
    else if scwSynmode w = 1 then .ok (.synLim (w.getLsbD 3) (w.extractLsb' 4 4))
    else if scwSynmode w = 2 then .ok (.synDsc (w.getLsbD 2)) else .error .emptySlot := by
  rw [decode_slot0, and_three]
  obtain h | h | h | h := eachMode (scwSynmode w) <;> rw [h] <;> rfl

theorem decode_slot1_fields (w : Word) :
    decode (.slot 1) w = if w.getLsbD 8 then .ok (.rscD (w.getLsbD 15)) else .ok (.rsc (w.getLsbD 15)) := by
  rw [decode_slot1, show (0x00000100 : Word) = bitAt true 8 from rfl, and_bit]
  cases w.getLsbD 8 <;> rfl

theorem decode_slot2_fields (w : Word) : decode (.slot 2) w = if w.getLsbD 9 then .ok .ctDiff else .ok .ctPass := by
  rw [decode_slot2, show (0x00000200 : Word) = bitAt true 9 from rfl, and_bit]
  cases w.getLsbD 9 <;> rfl

/-- The fields that the match of slot 3 fixes: FORMAT bit 7, MATRIX and SRC (R96). -/
theorem and_slot3_mask (w : Word) : w &&& (0x00803200 : Word) =
    bitAt (w.getLsbD 23) 23 ||| (scwMatrix w).setWidth 32 <<< 12 ||| bitAt (w.getLsbD 9) 9 := by
  rw [← and_bit, ← and_bit]
  apply BitVec.eq_of_getLsbD_eq
  intro i hi
  interval_cases i <;> simp [bitAt, scwMatrix]

theorem decode_slot3_fields (w : Word) : decode (.slot 3) w =
    if w.getLsbD 9 = true ∧ w.getLsbD 23 = false then
      (if scwMatrix w = 0 then .ok .ctMtxCg601 else if scwMatrix w = 1 then .ok .ctMtxVs601
        else if scwMatrix w = 2 then .ok .ctMtxCg709 else .ok .ctMtxVs709)
    else .error .emptySlot := by
  rw [decode_slot3, and_slot3_mask]
  obtain h | h | h | h := eachMode (scwMatrix w) <;> rw [h] <;>
    cases w.getLsbD 9 <;> cases w.getLsbD 23 <;> rfl

theorem decode_slot4_fields (w : Word) :
    decode (.slot 4) w = if w.getLsbD 11 then .ok .ctAlpha else .error .emptySlot := by
  rw [decode_slot4, show (0x00000800 : Word) = bitAt true 11 from rfl, and_bit]
  cases w.getLsbD 11 <;> rfl

/-- Either match of slot 5 asks for full-rate chroma and a 4:2:2 format; they differ in SUBSAMP. -/
theorem slot5_match {family : BitVec 4} {subsamp src422 : Bool} {p : Word} (hp : p = 0x00100000 ∨ p = 0x00104000)
    (met : family.setWidth 32 <<< 20 ||| bitAt subsamp 14 ||| bitAt src422 10 = p) : src422 = false ∧ family = 1 := by
  obtain rfl | rfl := hp <;> (revert family subsamp src422; decide)

theorem decode_slot5_fields (w : Word) : decode (.slot 5) w =
    if w.getLsbD 10 = false ∧ w.extractLsb' 20 4 = 1 then (if w.getLsbD 14 then .ok .ssCw else .ok .ssPair)
    else .error .emptySlot := by
  rw [decode_slot5, and_slot5_mask]
  by_cases fields : w.getLsbD 10 = false ∧ w.extractLsb' 20 4 = 1
  · obtain ⟨full, family⟩ := fields
    rw [full, family]
    cases w.getLsbD 14 <;> rfl
  · rw [if_neg fields, if_neg fun met => fields (slot5_match (.inl rfl) met),
      if_neg fun met => fields (slot5_match (.inr rfl) met)]

/-- An empty slot is the only way a slot can decode to nothing (R95). -/
theorem decode_slot_empty {k : BitVec 3} {w : Word} (h : ∀ i, decode (.slot k) w ≠ .ok i) :
    decode (.slot k) w = .error .emptySlot := by
  rw [decode_eq, decodeRows] at h ⊢
  split
  · rename_i r found
    simp only [found] at h
    exact absurd rfl (h _)
  · rfl

/-- Every row of slot 6 fixes FORMAT, at the code of a format (R96, R97). -/
theorem slot6_rows : ∀ r ∈ opTable, r.site = .slot 6 →
    r.mask = 0x00FF0000 ∧ (formatOf (scwFormat r.pattern)).isSome = true := by decide

theorem decode_slot6_none {w : Word} (h : formatOf (scwFormat w) = none) :
    decode (.slot 6) w = .error .emptySlot := by
  refine decode_slot_empty fun i decoded => ?_
  obtain ⟨r, hr, site, met, -⟩ := decode_ok_row decoded
  obtain ⟨mask, named⟩ := slot6_rows r hr site
  rw [mask] at met
  rw [← format_of_masked met, h] at named
  cases named

theorem decode_slot6_fields (w : Word) : decode (.slot 6) w =
    match formatOf (scwFormat w) with
    | some f => .ok (packOf w f)
    | none => .error .emptySlot := by
  cases h : formatOf (scwFormat w) with
  | some f => exact decode_slot6_format h
  | none => exact decode_slot6_none h

/-- Settles O4: site by site; the match of a slot is compared field by field. -/
theorem wordsDecodeByTheirFields : Obligations.WordsDecodeByTheirFields := by
  intro w
  refine ⟨decode_cmd w, decode_slot0_fields w, decode_slot1_fields w, decode_slot2_fields w, decode_slot3_fields w,
    decode_slot4_fields w, decode_slot5_fields w, ?_, decode_slot7 w⟩
  rw [decode_slot6_fields]
  cases formatOf (scwFormat w) with
  | none => rfl
  | some f => cases f <;> rfl

/-! ### The slots of a checked word (R91, R95, R214) -/

theorem slotFilled_three (w : Word) : slotFilled w 3 = (scwSrc w && !scwIsRgb w) := by
  rw [slotFilled, decode_slot3_fields, scwSrc, scwIsRgb, wordBit, wordBit]
  obtain h | h | h | h := eachMode (scwMatrix w) <;> rw [h] <;>
    cases w.getLsbD 9 <;> cases w.getLsbD 23 <;> rfl

theorem slotFilled_five_eq (w : Word) : slotFilled w 5 = (scwIs422 w && !scwSrc422 w) := by
  rw [slotFilled, decode_slot5_fields, scwIs422, scwSrc422, wordBit]
  generalize w.extractLsb' 20 4 = family, w.getLsbD 10 = src422, w.getLsbD 14 = subsamp
  revert family src422 subsamp
  decide

/-- LIMBITS is not 0 when SYNMODE is LIM (R91). -/
theorem Checked.limbits {s : State} (h : Checked s) (lim : scwSynmode s.scw = 1) : scwLimbits s.scw ≠ 0 := by
  have fields := h.fields
  simp only [scwFieldsLegal, lim, Bool.and_eq_true, Bool.or_eq_true, decide_eq_true_eq] at fields
  exact fields.1.2.resolve_left fun other => other rfl

/-- A checked word decodes to well-formed operations only (R91). -/
theorem Checked.wf_of_decode {s : State} (h : Checked s) {k : BitVec 3} {i : Instr}
    (decoded : decode (.slot k) s.scw = .ok i) : i.wf = true := by
  cases i with
  | synLim _ _ =>
    obtain ⟨lim, -, rfl⟩ := (carries_of_decode decoded).synLim_fields
    exact decide_eq_true (h.limbits lim)
  | _ => rfl

/-- Settles O6: each slot by its fields; the checks rule out the reserved SYNMODE, a FORMAT without a format and LIMBITS
0. -/
theorem checkedWordFillsItsSlots : Obligations.CheckedWordFillsItsSlots := by
  intro s passed
  have checked := checked_of_none passed
  obtain ⟨f, named, -⟩ := checked.named
  exact ⟨slotFilled_zero checked.synmode, slotFilled_one _, slotFilled_two _,
    slotFilled_iff.2 ⟨_, decode_slot6_format named⟩, slotFilled_seven _, slotFilled_three _, slotFilled_four _,
    slotFilled_five_eq _, fun _ _ => checked.wf_of_decode⟩

/-! ### The row of slot 6 (R99) -/

/-- Settles O49: slot 6 holds the PK operation of the word's format, whose row has ROWBYTES bytes. -/
theorem packedRowHasRowbytesBytes : Obligations.PackedRowHasRowbytesBytes := by
  intro s f i bytes named decoded packed
  rw [decode_slot6_format named] at decoded
  cases decoded
  rw [packedBytes_length packed, packedLength_packOf]

end Sys2Proof.Machine
end

section
/-! SUPPORT. A step while BUSY (R226), and an invalid command word as a step (R104, R212). -/

namespace Sys2Proof.Machine

/-! ### The operation of slot STAGE -/

/-- With nothing to be done from outside a step is the orchestrator's (R226, R247). -/
theorem step_orchestrate {s u : State}
    (h : (s.inputs = [] ∧ u = s) ∨ ∃ rest, s.inputs = .run :: rest ∧ u = { s with inputs := rest }) :
    step s = orchestrate u := by
  unfold step takeStep
  obtain ⟨head, rfl⟩ | ⟨rest, head, rfl⟩ := h <;> rw [head]

/-- Settles O7: the step is the orchestrator's, and its stage operation is the one fetched. -/
theorem stepRunsTheOperationOfItsSlot : Obligations.StepRunsTheOperationOfItsSlot := by
  intro s u i from_outside busy decoded
  rw [step_orchestrate from_outside, orchestrate, if_pos busy]
  simp only [stageStep, fetch, decoded]
  cases exec i u <;> rfl

/-! ### Invalid command words -/

theorem decode_cmd_invalid {w : Word} (h : 3 ≤ w.toNat) : decode .cmd w = .error .invalidCommand := by
  rw [decode_cmd, if_neg (by bv_omega), if_neg (by bv_omega), if_neg (by bv_omega)]

theorem step_invalidCommand {s : State} {rest : List Input} {w : Word} (head : s.inputs = .write .word 0x04 w :: rest)
    (bad : 3 ≤ w.toNat) : step s = .next (invalidCommand { s with inputs := rest }) := by
  rw [step_write head, portWrite_reg (r := .cmd) rfl, writeReg, writeCommand, decode_cmd_invalid bad]

theorem invalidCommand_settled {s : State} (h : s.phase = .idle ∨ s.phase = .done) :
    invalidCommand s = { s with row := 0, stage := 0, phase := .fault, faultRec := ⟨0x10, 0, 0, 0⟩ } := by
  rw [invalidCommand, raiseFault, (acceptsStart_iff _).2 h]
  rfl

theorem invalidCommand_running {s : State} (h : s.phase = .busy ∨ s.phase = .fault) :
    invalidCommand s = { s with wrerr := true } := by
  rw [invalidCommand, (not_acceptsStart_iff _).2 h]
  rfl

/-- Settles O15: the word reaches CMD and decodes to no command; what it does then is the phase's to say. -/
theorem invalidCommandWord : Obligations.InvalidCommandWord := by
  intro s rest w head bad
  rw [step_invalidCommand head bad]
  exact ⟨fun settled => congrArg _ (invalidCommand_settled settled),
    fun running => congrArg _ (invalidCommand_running running)⟩

end Sys2Proof.Machine
end

section
/-! SUPPORT. What the rows of a completed SYN operation satisfy: their range (R121), the constant row of a flat field
(R123), and that a highpass coefficient reaches its own pair of samples alone (R120, R122). -/

namespace Sys2Proof.Machine

/-! ### A completed SYN operation -/

/-- A SYN operation that has raised no CV_BUS leaves its rows in RR of the channels in use, which are wide enough for
R113 to R115 or empty, and every other row as it was (R110, R112, R124). -/
theorem synthesize_busy {finish : Int → Int} {s t : State} (ran : synthesize finish s = .next t)
    (busy : t.phase = .busy) (ch : Fin 4) :
    (inUse s ch = true → t.rr.get ch = synthRow finish s ch ∧ (0 < chanCount s ch → 3 ≤ chanCount s ch)) ∧
      (inUse s ch = false → t.rr.get ch = s.rr.get ch) := by
  obtain ⟨notNarrow, ⟨-, rfl⟩ | ⟨-, rfl⟩⟩ := synthesize_next ran
  · rw [useFree_rr, Quad.get_build]
    refine ⟨fun used => ⟨if_pos used, fun nonempty => ?_⟩, fun unused => by rw [unused, if_neg Bool.false_ne_true]⟩
    by_contra narrow
    exact Bool.false_ne_true (notNarrow ▸ (narrowChannel_iff s).2 ⟨ch, used, nonempty, by omega⟩)
  · cases busy

theorem exists_of_mem_synthRow {finish : Int → Int} {s : State} {ch : Fin 4} {x : Int}
    (mem : x ∈ synthRow finish s ch) : ∃ sum, x = finish sum := by
  obtain ⟨i, -, is⟩ := mem_rowFrom.1 mem
  exact ⟨_, is.symm⟩

/-! ### Ranges (R121) -/

/-- Halving a 16-bit value, rounded or not, reaches 16384 at most (R13, R117). -/
theorem finishStd_mem (rounded : Bool) (x : Int) : -16384 ≤ finishStd rounded x ∧ finishStd rounded x ≤ 16384 := by
  have clamped := clamp16_mem x
  unfold finishStd
  cases rounded
  · rw [d2_false]; omega
  · rw [d2_true]; omega

/-- Settles O27: every element is the last step of its operation applied to some sum, and the last step keeps to its
range whatever the sum is. -/
theorem synthesizedValuesAreInRange : Obligations.SynthesizedValuesAreInRange := by
  intro s t ch x _ busy used mem
  have finished {finish : Int → Int} (ran : synthesize finish s = .next t) : ∃ sum, x = finish sum :=
    exists_of_mem_synthRow (((synthesize_busy ran busy ch).1 used).1 ▸ mem)
  refine ⟨fun rounded ran => ?_, fun rounded limbits ran => ?_, fun shift ran => ?_⟩
  · obtain ⟨sum, rfl⟩ := finished ran
    exact finishStd_mem rounded sum
  · obtain ⟨sum, rfl⟩ := finished ran
    obtain ⟨lo, hi⟩ := clampu_mem (d2 (clamp16 sum) rounded) limbits.toNat
    exact ⟨lo, hi, (finishLim_fits rounded limbits sum).2⟩
  · obtain ⟨sum, rfl⟩ := finished ran
    exact finishDsc_fits shift sum

/-! ### What a sum depends on (R113 to R115, R122) -/

/-- The two sums of index c depend on the lowpass row and on the highpass coefficient c alone. -/
theorem preEven_preOdd_congr {lp lp' hp hp' : Nat → Int} {n c : Nat} (wide : 3 ≤ n) (inside : c < n)
    (low : ∀ j, j < n → lp j = lp' j) (high : hp c = hp' c) :
    preEven lp hp n c = preEven lp' hp' n c ∧ preOdd lp hp n c = preOdd lp' hp' n c := by
  obtain rfl | rfl | ⟨first, last⟩ : c = 0 ∨ c = n - 1 ∨ 1 ≤ c ∧ c + 2 ≤ n := by omega
  · simp only [preEven_first, preOdd_first, high, low 0 inside, low 1 (by omega), low 2 (by omega), and_self]
  · have two : 2 ≤ n := by omega
    simp only [preEven_last _ _ two, preOdd_last _ _ two, high, low (n - 1) inside, low (n - 2) (by omega),
      low (n - 3) (by omega), and_self]
  · simp only [preEven_between _ _ first last, preOdd_between _ _ first last, high, low c inside,
      low (c - 1) (by omega), low (c + 1) (by omega), and_self]

theorem preSum_congr {lp lp' hp hp' : Nat → Int} {n i : Nat} (wide : 3 ≤ n) (inside : i < 2 * n)
    (low : ∀ j, j < n → lp j = lp' j) (high : hp (i / 2) = hp' (i / 2)) :
    preSum lp hp n i = preSum lp' hp' n i := by
  obtain ⟨even, odd⟩ := preEven_preOdd_congr wide (by omega) low high
  rw [preSum, preSum, even, odd]

/-! ### Flat fields (R123) -/

/-- Between the borders rd8(0) + L, and at the borders rd8(8L). -/
theorem preSum_flat (L : Int) (n i : Nat) : preSum (fun _ => L) (fun _ => 0) n i = L := by
  have border : rd8 (8 * L) = L := by rw [rd8_eq]; omega
  have heavy : 11 * L - 4 * L + 1 * L = 8 * L := by ring
  have light : 5 * L + 4 * L - 1 * L = 8 * L := by ring
  have between : rd8 (L - L) = 0 := by rw [sub_self]; rfl
  simp only [preSum, preEven, preOdd, heavy, light, border, between, add_zero, sub_zero, zero_add, ite_self]

theorem synthRow_flat (finish : Int → Int) {s : State} {ch : Fin 4} {L : Int} (wide : 3 ≤ chanCount s ch)
    (flat : ∀ c, c < chanCount s ch → (∀ v ∈ heldLow s ch c, v = L) ∧ ∀ v ∈ heldHigh s ch c, v = 0) :
    synthRow finish s ch = List.replicate (2 * chanCount s ch) (finish L) := by
  refine List.eq_replicate_iff.2 ⟨synthRow_length finish s ch, fun x mem => ?_⟩
  obtain ⟨i, inside, rfl⟩ := mem_rowFrom.1 mem
  have high : readHigh s ch i (i / 2) = 0 := (flat (i / 2) (by omega)).2 _ (readHigh_mem s ch i (i / 2))
  rw [preSum_congr (hp' := fun _ => 0) wide inside (fun c hc => (flat c hc).1 _ (readLow_mem s ch i c)) high,
    preSum_flat]

/-- Settles O28: every sum of a flat field is L, whatever the last step makes of it. -/
theorem flatFieldStaysFlat : Obligations.FlatFieldStaysFlat := by
  intro s ch L wide answered used flat
  have constant (finish : Int → Int) : ∃ t, synthesize finish s = .next t ∧
      t.rr.get ch = List.replicate (2 * chanCount s ch) (finish L) := by
    refine ⟨_, synthesize_answered finish wide answered, ?_⟩
    rw [useFree_rr, Quad.get_build, if_pos used, synthRow_flat finish (wide ch used) flat]
  refine ⟨fun rounded => constant (finishStd rounded),
    fun rounded limbits => constant (finishLim rounded limbits.toNat), fun shift => ?_⟩
  obtain ⟨t, ran, row⟩ := constant (finishDsc shift)
  exact ⟨t, ran, row.trans (congrArg _ (congrFun (finishDsc_eq shift) L))⟩

/-! ### Locality of a highpass coefficient (R120, R122) -/

/-- A read of a sample sees of COEF the sample itself only; the values it had before are the model's own. -/
theorem readCoef_congr {s : State} {coef : Memory 16} {a : Word}
    (same : coefSample { s with coef := coef } a = coefSample s a) (draw : Nat) :
    readCoef { s with coef := coef } draw a = readCoef s draw a := by
  rw [readCoef, readCoef, same]
  rfl

/-- Element i of a row sees of COEF the lowpass row and the highpass coefficient i / 2. -/
theorem synthRow_getElem?_congr (finish : Int → Int) {s : State} {coef : Memory 16} {ch : Fin 4} {i : Nat}
    (wide : 0 < chanCount s ch → 3 ≤ chanCount s ch)
    (low : ∀ c, c < chanCount s ch → lowpass { s with coef := coef } ch c = lowpass s ch c)
    (high : i / 2 < chanCount s ch → highpass { s with coef := coef } ch (i / 2) = highpass s ch (i / 2)) :
    (synthRow finish { s with coef := coef } ch)[i]? = (synthRow finish s ch)[i]? := by
  by_cases inside : i < 2 * chanCount s ch
  · rw [synthRow_getElem? finish s ch inside, synthRow_getElem? finish { s with coef := coef } ch inside]
    have sums := preSum_congr (wide (by omega)) inside
      (lp := readLow { s with coef := coef } ch i) (lp' := readLow s ch i)
      (hp := readHigh { s with coef := coef } ch i) (hp' := readHigh s ch i)
      (fun c hc => readCoef_congr (low c hc) _) (readCoef_congr (high (by omega)) _)
    exact congrArg (fun sum => some (finish sum)) sums
  · have short := not_lt.1 inside
    rw [List.getElem?_eq_none ((synthRow_length finish s ch).trans_le short),
      List.getElem?_eq_none ((synthRow_length finish { s with coef := coef } ch).trans_le short)]

/-- Settles O29: a row in use is compared element by element, and the rows of the other channels are not written. -/
theorem highpassCoefficientIsLocal : Obligations.HighpassCoefficientIsLocal := by
  intro s s' t t' i ch c syn _ busy busy' differ ran ran' agree k j apart
  obtain ⟨finish, is⟩ := exec_syn syn
  rw [is] at ran ran'
  generalize s'.coef = coef at differ
  subst differ
  obtain ⟨row, kept⟩ := synthesize_busy ran busy k
  obtain ⟨row', kept'⟩ := synthesize_busy ran' busy' k
  cases used : inUse s k with
  | true =>
    obtain ⟨is_row, wide⟩ := row used
    rw [(row' used).1, is_row]
    refine synthRow_getElem?_congr finish wide (fun m hm => (agree k m used hm).1) fun inside => ?_
    exact (agree k (j / 2) used inside).2.resolve_left apart
  | false => rw [kept used, kept' used]

end Sys2Proof.Machine
end

section
/-! SUPPORT. RSC element by element: its saturation as one clamp (R132), what that gives at equal precisions (R134),
and how far the draw of RSC.D can move an element (R136, R137). -/

namespace Sys2Proof.Machine

/-! ### Saturation (R132) -/

/-- The least legal output value (R132). -/
def legalLo (signed : Bool) (p : Nat) : Int := if signed then -(2 ^ (p - 1)) else 0

/-- The greatest legal output value (R132). -/
def legalHi (signed : Bool) (p : Nat) : Int := if signed then 2 ^ (p - 1) - 1 else 2 ^ p - 1

theorem saturate_eq_clamp (signed : Bool) (p : Nat) (x : Int) :
    saturate signed p x = clamp x (legalLo signed p) (legalHi signed p) := by
  cases signed <;> rfl

theorem legalLo_le_legalHi (signed : Bool) (p : Nat) : legalLo signed p ≤ legalHi signed p := by
  have unsigned_pos : (0 : Int) < 2 ^ p := by positivity
  have signed_pos : (0 : Int) < 2 ^ (p - 1) := by positivity
  cases signed
  · show (0 : Int) ≤ 2 ^ p - 1
    omega
  · show -(2 ^ (p - 1) : Int) ≤ 2 ^ (p - 1) - 1
    omega

theorem saturate_of_legal {signed : Bool} {p : Nat} {x : Int} (lo : legalLo signed p ≤ x)
    (hi : x ≤ legalHi signed p) : saturate signed p x = x := by
  rw [saturate_eq_clamp, clamp_of_mem lo hi]

/-- A saturated value is legal, so that saturating it again changes nothing. -/
theorem saturate_saturate (signed : Bool) (p : Nat) (x : Int) :
    saturate signed p (saturate signed p x) = saturate signed p x := by
  obtain ⟨lo, hi⟩ := clamp_mem (legalLo_le_legalHi signed p) x
  rw [← saturate_eq_clamp] at lo hi
  exact saturate_of_legal lo hi

/-- Two values at most one apart stay so, in the same order, under a clamp to a range that is not empty. -/
theorem clamp_le_clamp_le_add_one {x y lo hi : Int} (range : lo ≤ hi) (le : x ≤ y) (near : y ≤ x + 1) :
    clamp x lo hi ≤ clamp y lo hi ∧ clamp y lo hi ≤ clamp x lo hi + 1 := by
  unfold clamp
  split_ifs <;> omega

/-! ### The row of a completed operation (R130) -/

/-- RSC of one element with the shift's three cases as two (R133). -/
theorem rescale_eq (signed : Bool) (pInt pOut : Nat) (v : Int) :
    rescale signed pInt pOut v =
      saturate signed pOut (if pOut < pInt then asr v (pInt - pOut) else v * 2 ^ (pOut - pInt)) := by
  rw [rescale, rescaleShift_eq]

/-- At equal precisions RSC of one element is its saturation (R134). -/
theorem rescale_self (signed : Bool) (p : Nat) (v : Int) : rescale signed p p v = saturate signed p v := by
  rw [rescale_eq, if_neg (lt_irrefl p), Nat.sub_self, pow_zero, mul_one]

/-- What a completed RSC writes to the row of a channel in use. -/
theorem exec_rsc_row {outsign : Bool} {s t : State} (ran : exec (.rsc outsign) s = .next t) {ch : Fin 4}
    (used : inUse s ch = true) :
    t.wr.get ch = rescaledRow (fun _ _ v => rescale outsign (pInt s) (pOut s) v) s ch := by
  rw [(rescaleRows_next ran).2, Quad.get_build, if_pos used]

/-- What a completed RSC.D writes to the row of a channel in use. -/
theorem exec_rscD_row {outsign : Bool} {s t : State} (ran : exec (.rscD outsign) s = .next t) {ch : Fin 4}
    (used : inUse s ch = true) : t.wr.get ch = rescaledRow (ditherFunction outsign s) s ch := by
  rw [(execRscD_next ran).2, Quad.get_build, if_pos used]

theorem elem_rescaledRow (f : Fin 4 → Nat → Int → Int) {s : State} {ch : Fin 4} {i : Nat}
    (inside : i < 2 * chanCount s ch) : elem (rescaledRow f s ch) i = f ch i (elem (s.rr.get ch) i) :=
  elem_rowFrom inside _

/-- Settles O31: held rows are rescaled element by element, and no other field than WR is written. -/
theorem rscResult : Obligations.RscResult := by
  intro outsign s held
  have ran := (rescaleRows_eq (fun _ _ v => rescale outsign (pInt s) (pOut s) v) s).1 held
  refine ⟨_, ran, rfl, ⟨fun _ => rfl, fun _ => rfl⟩, fun ch used => ?_, fun ch unused => ?_⟩
  · rw [exec_rsc_row ran used]
    refine ⟨rescaledRow_length _ s ch, fun i inside => ?_⟩
    rw [rescaledRow_getElem? _ s ch inside, rescale_eq]
    rfl
  · rw [Quad.get_build, unused, if_neg Bool.false_ne_true]

/-! ### Equal precisions (R134) -/

/-- At equal precisions a completed RSC writes the saturated values. -/
theorem exec_rsc_row_of_equal {outsign : Bool} {s t : State} (equal : pInt s = pOut s)
    (ran : exec (.rsc outsign) s = .next t) {ch : Fin 4} (used : inUse s ch = true) :
    t.wr.get ch = rescaledRow (fun _ _ v => saturate outsign (pOut s) v) s ch := by
  have saturates : rescale outsign (pInt s) (pOut s) = saturate outsign (pOut s) :=
    funext fun v => by rw [equal, rescale_self]
  rw [exec_rsc_row ran used, saturates]

theorem rowFrom_congr {n : Nat} {f g : Nat → Int} (agree : ∀ i, i < n → f i = g i) : rowFrom n f = rowFrom n g :=
  List.map_congr_left fun i mem => agree i (List.mem_range.1 mem)

/-- Rescaling a row that an idempotent `f` has rescaled gives that row again. -/
theorem rescaledRow_rescaledRow {f : Fin 4 → Nat → Int → Int} {s : State} {rows : Quad Row} {ch : Fin 4}
    (idempotent : ∀ i v, f ch i (f ch i v) = f ch i v) (source : rows.get ch = rescaledRow f s ch) :
    rescaledRow f { s with wr := rows, rr := rows } ch = rescaledRow f s ch :=
  rowFrom_congr fun i (inside : i < 2 * chanCount s ch) => by
    rw [source, elem_rescaledRow f inside, idempotent]

/-- Settles O33: at equal precisions RSC saturates, and a saturated value is legal; the second run reads in RR what the
first has written to WR. -/
theorem rscIsIdempotentAtEqualPrecisions : Obligations.RscIsIdempotentAtEqualPrecisions := by
  intro outsign s t u equal _ ran again ch used
  have row := exec_rsc_row_of_equal equal ran used
  obtain ⟨rows, rfl⟩ : ∃ rows, t = { s with wr := rows } := ⟨_, (rescaleRows_next ran).2⟩
  rw [row]
  refine ⟨?_, fun i inside => ?_⟩
  · rw [exec_rsc_row_of_equal (s := { s with wr := rows, rr := rows }) equal again used]
    exact rescaledRow_rescaledRow (fun _ => saturate_saturate outsign (pOut s)) row
  · rw [elem_rescaledRow _ inside]
    exact ⟨rfl, saturate_of_legal⟩

/-! ### The draw of RSC.D (R136, R137) -/

/-- A term below half of the divisor raises the quotient by one at most, and only from a remainder above the half. -/
theorem ediv_add_term {v r h : Int} (nonneg : 0 ≤ r) (term : r < h) :
    v / (2 * h) ≤ (v + r) / (2 * h) ∧ (v + r) / (2 * h) ≤ v / (2 * h) + 1 ∧
      ((v + r) / (2 * h) = v / (2 * h) ∨ h + 1 ≤ v % (2 * h)) := by
  have pos : 0 < 2 * h := by omega
  have low := Int.emod_nonneg v pos.ne'
  have high := Int.emod_lt_of_pos v pos
  have carried : (v + r) / (2 * h) = v / (2 * h) + (v % (2 * h) + r) / (2 * h) := by
    conv_lhs => rw [← Int.mul_ediv_add_emod v (2 * h), add_assoc, Int.mul_add_ediv_left _ _ pos.ne']
  rw [carried]
  by_cases carry : v % (2 * h) + r < 2 * h
  · rw [Int.ediv_eq_zero_of_lt (by omega) carry]
    omega
  · have one : (v % (2 * h) + r) / (2 * h) = 1 := by
      rw [Int.ediv_eq_iff_of_pos pos]; omega
    omega

/-- The same of a shift by k and a term of at most 2^(k-1) - 1. -/
theorem asr_add_term {k r : Nat} (v : Int) (shift : 0 < k) (term : r ≤ 2 ^ (k - 1) - 1) :
    asr v k ≤ asr (v + r) k ∧ asr (v + r) k ≤ asr v k + 1 ∧
      (asr (v + r) k = asr v k ∨ 2 ^ (k - 1) + 1 ≤ v % 2 ^ k) := by
  have double : (2 : Int) ^ k = 2 * 2 ^ (k - 1) := (mul_pow_sub_one shift.ne' 2).symm
  have pos : 0 < 2 ^ (k - 1) := by positivity
  have below : (r : Int) < 2 ^ (k - 1) := by exact_mod_cast (by omega : r < 2 ^ (k - 1))
  unfold asr
  rw [double]
  exact ediv_add_term (Int.natCast_nonneg r) below

/-- Settles O34: below a shift of 2 the two operations write the same; else the draw moves the shifted value by at most
one, and saturation keeps that. -/
theorem ditherAddsAtMostOne : Obligations.DitherAddsAtMostOne := by
  intro outsign s t u plain dithered ch used i inside
  rw [exec_rsc_row plain used, exec_rscD_row dithered used, elem_rescaledRow _ inside, elem_rescaledRow _ inside]
  generalize elem (s.rr.get ch) i = v
  by_cases large : pOut s + 2 ≤ pInt s
  · obtain ⟨le, near, moved⟩ := asr_add_term v (by omega : 0 < pInt s - pOut s)
      (ditherTerm_le s.freeCount ch.val i (pInt s - pOut s))
    obtain ⟨le', near'⟩ := clamp_le_clamp_le_add_one (legalLo_le_legalHi outsign (pOut s)) le near
    rw [ditherFunction_of_shift large, rescale_eq, if_pos (by omega : pOut s < pInt s), saturate_eq_clamp,
      saturate_eq_clamp]
    exact ⟨le', near', moved.imp (fun same => by rw [same]) fun carry => ⟨large, carry⟩⟩
  · rw [ditherFunction_of_small (by omega)]
    exact ⟨le_refl _, by omega, .inl rfl⟩

end Sys2Proof.Machine
end

section
/-! SUPPORT. The ColorTransformer's rows, element by element: the copies, the differences, the four matrix sets and the
alpha row (R148 to R160), and what a matrix without chroma gains does to a neutral colour (R164). -/

namespace Sys2Proof.Machine

/-! ### Operations that complete -/

/-- An operation of slots 1 to 6 completes when the rows it reads hold their elements. -/
theorem exec_of_rowsRead {i : Instr} {k : BitVec 3} (hk : siteOf i = .slot k) (first : k ≠ 0 := by decide)
    (last : k ≠ 7 := by decide) {s : State} (held : RowsRead s i) : ∃ t, exec i s = .next t :=
  (exec_gated hk first last s).1 held

theorem sameMemories_of_eq {s t : State} (out : t.out = s.out) (coef : t.coef = s.coef) : SameMemories s t :=
  ⟨fun _ => by rw [outByte, out]; rfl, fun _ => by rw [coefSample, coef]; rfl⟩

theorem rowFrom_getElem?_of_lt {n i : Nat} (f : Nat → Int) (inside : i < n) : (rowFrom n f)[i]? = some (f i) := by
  rw [rowFrom_getElem?, if_pos inside]

/-! ### CT.PASS and CT.DIFF (R148, R150) -/

/-- Settles O35: on held rows CT.PASS completes, and a copied row is the beginning of its source. -/
theorem ctPassResult : Obligations.CtPassResult := by
  intro s held0 held1 held2
  obtain ⟨t, ran⟩ := exec_of_rowsRead (i := .ctPass) rfl (held := ⟨held0, held1, held2⟩)
  obtain ⟨-, -, -, rfl⟩ := execCtPass_next ran
  exact ⟨_, ran, rfl, sameMemories_of_eq rfl rfl, copyRow_eq_take held0, copyRow_eq_take held1, copyRow_eq_take held2⟩

/-- Settles O36: on held rows CT.DIFF completes; R and B are `diffComponent` of their difference and G, element by
element. -/
theorem ctDiffResult : Obligations.CtDiffResult := by
  intro s held0 held1 held2
  obtain ⟨t, ran⟩ := exec_of_rowsRead (i := .ctDiff) rfl (held := ⟨held0, held1, held2⟩)
  obtain ⟨-, -, -, rfl⟩ := execCtDiff_next ran
  exact ⟨_, ran, rfl, sameMemories_of_eq rfl rfl, rowFrom_length _ _, copyRow_length _ _, rowFrom_length _ _,
    fun i inside => ⟨rowFrom_getElem?_of_lt _ inside, rowFrom_getElem?_of_lt _ inside,
      rowFrom_getElem?_of_lt _ inside⟩⟩

/-! ### The matrix sets (R153 to R159) -/

/-- The four CT.MTX operations, each with its set of MATRIX_ROM (R155, R157 to R159). -/
def matrixSets (rom : Config.MatrixRom) : List (Instr × Config.Matrix) :=
  [(.ctMtxCg601, rom.cg601), (.ctMtxVs601, rom.vs601), (.ctMtxCg709, rom.cg709), (.ctMtxVs709, rom.vs709)]

/-- A CT.MTX operation is the one matrix operation with its own set. -/
theorem exec_matrixSet {s : State} {i : Instr} {m : Config.Matrix} (set : (i, m) ∈ matrixSets s.params.matrixRom) :
    exec i s = applyMatrix m s := by
  simp only [matrixSets, List.mem_cons, List.not_mem_nil, or_false, Prod.mk.injEq] at set
  obtain ⟨rfl, rfl⟩ | ⟨rfl, rfl⟩ | ⟨rfl, rfl⟩ | ⟨rfl, rfl⟩ := set <;> rfl

/-- On held components the matrix operation completes. -/
theorem applyMatrix_held (m : Config.Matrix) {s : State} (held : ComponentsHeld s (rowWidth s)) :
    applyMatrix m s = .next { s with cr := ⟨matrixRow m.y s, matrixRow m.u s, matrixRow m.v s⟩ } :=
  if_pos ((rows444Written_iff s).2 held)

@[simp] theorem matrixRow_length (q : Config.MatrixRow) (s : State) : (matrixRow q s).length = rowWidth s :=
  rowFrom_length _ _

/-- Settles O37: each CT.MTX operation is `applyMatrix` of its own set, which computes its three rows from the state
before. -/
theorem matrixResults : Obligations.MatrixResults := by
  intro s i m held set out
  have ran : exec i s = _ := (exec_matrixSet set).trans (applyMatrix_held m held)
  have row : ∀ (q : Config.MatrixRow) (j : Nat), j < rowWidth s → (matrixRow q s)[j]? = some (out q j) :=
    fun q j inside => rowFrom_getElem?_of_lt _ inside
  exact ⟨_, ran, rfl, sameMemories_of_eq rfl rfl, matrixRow_length _ s, matrixRow_length _ s, matrixRow_length _ s,
    fun j inside => ⟨row m.y j inside, row m.u j inside, row m.v j inside⟩⟩

/-! ### Neutral colours (R164) -/

theorem clampu_of_mem {x : Int} {b : Nat} (lo : 0 ≤ x) (hi : x ≤ 2 ^ b - 1) : clampu x b = x := clamp_of_mem lo hi

/-- A chroma row of a matrix: coefficients of sum 0 and the offset of mid-scale. -/
def ChromaRow (q : Config.MatrixRow) : Prop := q.m0 + q.m1 + q.m2 = 0 ∧ q.o = 128

/-- Mid-scale is a legal value of a working precision of at least 8 bits. -/
theorem midScale_le {w : Nat} (wide : 8 ≤ w) : (128 : Int) * 2 ^ (w - 8) ≤ 2 ^ w - 1 := by
  have scale : (2 : Int) ^ w = 256 * 2 ^ (w - 8) := by
    conv_lhs => rw [← Nat.add_sub_cancel' wide, pow_add]
    norm_num
  have pos : (0 : Int) < 2 ^ (w - 8) := by positivity
  omega

/-- On a neutral colour the coefficients of a chroma row cancel, and its offset alone is left (R164). -/
theorem mtxRow_neutral {q : Config.MatrixRow} (chroma : ChromaRow q) {w : Nat} (wide : 8 ≤ w) (x : Int) :
    mtxRow q w x x x = 128 * 2 ^ (w - 8) := by
  obtain ⟨cancel, offset⟩ := chroma
  have dot : q.m0 * x + q.m1 * x + q.m2 * x = 0 := by rw [← add_mul, ← add_mul, cancel, zero_mul]
  have rounding : asr (0 + 128) 8 = 0 := by decide
  rw [mtxRow, dot, rounding, zero_add, shl_eq, offset]
  exact clampu_of_mem (by positivity) (midScale_le wide)

/-- Where R = G = B, a chroma row writes mid-scale. -/
theorem elem_matrixRow_neutral {q : Config.MatrixRow} (chroma : ChromaRow q) {s : State} (wide : 8 ≤ pOut s) {j : Nat}
    (inside : j < rowWidth s) (green : elem s.cr.k1 j = elem s.cr.k0 j) (blue : elem s.cr.k2 j = elem s.cr.k0 j) :
    elem (matrixRow q s) j = 128 * 2 ^ (pOut s - 8) := by
  rw [matrixRow, elem_rowFrom inside, green, blue, mtxRow_neutral chroma wide]

/-- The U and V rows of the default sets are chroma rows (R156). -/
theorem chromaRow_default {i : Instr} (set : i ∈ [.ctMtxCg601, .ctMtxVs601, .ctMtxCg709, .ctMtxVs709]) :
    ∃ m, (i, m) ∈ matrixSets Config.defaultMatrixRom ∧ ChromaRow m.u ∧ ChromaRow m.v := by
  have sums : ∀ p ∈ matrixSets Config.defaultMatrixRom, ChromaRow p.2.u ∧ ChromaRow p.2.v := by
    unfold ChromaRow; decide
  have named : i ∈ (matrixSets Config.defaultMatrixRom).map Prod.fst := set
  obtain ⟨⟨_, m⟩, mem, rfl⟩ := List.mem_map.1 named
  exact ⟨m, mem, sums _ mem⟩

/-- Settles O38: the coefficients of every default chroma row sum to 0 and its offset is 128. -/
theorem neutralColourHasNoChroma : Obligations.NeutralColourHasNoChroma := by
  intro s t i rom set wide ran j inside green blue
  obtain ⟨m, mem, chromaU, chromaV⟩ := chromaRow_default set
  rw [← rom] at mem
  rw [exec_matrixSet mem] at ran
  obtain ⟨-, rfl⟩ := applyMatrix_next ran
  exact ⟨elem_matrixRow_neutral chromaU wide inside green blue, elem_matrixRow_neutral chromaV wide inside green blue⟩

/-! ### CT.ALPHA (R160) -/

/-- A clamp to an unsigned range brings what is not positive to 0. -/
theorem clampu_of_nonpos {x : Int} (b : Nat) (nonpos : x ≤ 0) : clampu x b = 0 := by
  obtain below | rfl := nonpos.lt_or_eq
  · exact clamp_of_lt _ below
  · have pos : (0 : Int) < 2 ^ b := by positivity
    exact clampu_of_mem le_rfl (by omega)

theorem asr_nonpos {x : Int} (k : Nat) (nonpos : x ≤ 0) : asr x k ≤ 0 :=
  (Int.ediv_le_ediv (by positivity) nonpos).trans_eq (Int.zero_ediv _)

/-- An alpha value at or below the offset gives 0 for every gain and scale (R160). -/
theorem decompand_of_le {dc : Nat} {a : Int} (w gain scale : Nat) (le : a ≤ dc) : decompand w dc gain scale a = 0 := by
  have below : (a - dc) * gain ≤ 0 := mul_nonpos_of_nonpos_of_nonneg (by omega) (Int.natCast_nonneg gain)
  exact clampu_of_nonpos w (asr_nonpos scale below)

/-- Settles O39: on a held row CT.ALPHA completes with AR the `decompand` of every element. -/
theorem ctAlphaResult : Obligations.CtAlphaResult := by
  intro s held
  obtain ⟨t, ran⟩ := exec_of_rowsRead (i := .ctAlpha) rfl (held := held)
  obtain ⟨-, rfl⟩ := execCtAlpha_next ran
  have row : ∀ i, i < rowWidth s → (decompandedRow s)[i]? = some
      (decompand (pOut s) (alphaDcValue s) (alphaGainValue s) (alphaScaleValue s) (elem s.wr.c3 i)) :=
    fun i inside => rowFrom_getElem?_of_lt _ inside
  refine ⟨_, ran, rfl, sameMemories_of_eq rfl rfl, rowFrom_length _ _, fun i inside => ⟨row i inside, fun le => ?_⟩⟩
  rw [row i inside, decompand_of_le _ _ _ le]

end Sys2Proof.Machine
end

section
/-! SUPPORT. The two subsampling policies: the rows they complete with (R171 to R173), and that a constant row stays
constant (R174), as a row whose values keep to a range of one value. -/

namespace Sys2Proof.Machine

/-- On held chroma rows a subsampling operation completes with `f` of either row, N elements each, in SR. -/
theorem subsample_held (f : Row → Nat → Int) {s : State} (held1 : rowWidth s ≤ s.cr.k1.length)
    (held2 : rowWidth s ≤ s.cr.k2.length) :
    ∃ t, subsample f s = .next t ∧ t = { s with sr := t.sr } ∧ SameMemories s t ∧
      t.sr.k1.length = coefCount s ∧ t.sr.k2.length = coefCount s ∧
      ∀ j, j < coefCount s → t.sr.k1[j]? = some (f s.cr.k1 j) ∧ t.sr.k2[j]? = some (f s.cr.k2 j) :=
  ⟨{ s with sr := ⟨rowFrom (coefCount s) (f s.cr.k1), rowFrom (coefCount s) (f s.cr.k2)⟩ },
    if_pos (by simp [held1, held2]), rfl, sameMemories_of_eq rfl rfl, rowFrom_length _ _, rowFrom_length _ _,
    fun _ inside => ⟨rowFrom_getElem?_of_lt _ inside, rowFrom_getElem?_of_lt _ inside⟩⟩

/-- Settles O40: SS.PAIR and SS.CW are the one subsampling operation, with `pairSample` and with `centreSample`. -/
theorem subsamplingResults : Obligations.SubsamplingResults := fun _ held1 held2 =>
  ⟨subsample_held pairSample held1 held2, subsample_held centreSample held1 held2⟩

/-! ### Constant chroma (R174) -/

theorem rowIn_self {row : Row} {n : Nat} {c : Int} (held : n ≤ row.length)
    (constant : ∀ i, i < n → elem row i = c) : RowIn row n c c :=
  ⟨held, fun i inside => ⟨(constant i inside).ge, (constant i inside).le⟩⟩

theorem rowFrom_eq_replicate {n : Nat} {f : Nat → Int} {c : Int} (h : RowIn (rowFrom n f) n c c) :
    rowFrom n f = List.replicate n c := by
  refine List.eq_replicate_iff.2 ⟨rowFrom_length n f, fun x mem => ?_⟩
  obtain ⟨i, inside, rfl⟩ := mem_rowFrom.1 mem
  obtain ⟨lo, hi⟩ := h.2 i inside
  rw [elem_rowFrom inside] at lo hi
  exact hi.antisymm lo

/-- A subsampling operation whose averages keep to the range of their row keeps constant rows constant. -/
theorem subsample_constant {f : Row → Nat → Int} {s t : State} {u v : Int}
    (average : ∀ row c, RowIn row (rowWidth s) c c → RowIn (rowFrom (coefCount s) (f row)) (coefCount s) c c)
    (ran : subsample f s = .next t)
    (constant : ∀ j, j < rowWidth s → elem s.cr.k1 j = u ∧ elem s.cr.k2 j = v) :
    t.sr.k1 = List.replicate (coefCount s) u ∧ t.sr.k2 = List.replicate (coefCount s) v := by
  obtain ⟨held1, held2, rfl⟩ := subsample_next ran
  exact ⟨rowFrom_eq_replicate (average _ _ (rowIn_self held1 fun j inside => (constant j inside).1)),
    rowFrom_eq_replicate (average _ _ (rowIn_self held2 fun j inside => (constant j inside).2))⟩

/-- Settles O41: the averages of either policy keep to the range of their row, here a range of one value. -/
theorem constantChromaStaysConstant : Obligations.ConstantChromaStaysConstant := by
  rintro s t i u v (rfl | rfl) ran constant
  · exact subsample_constant (fun _ _ => rowIn_pairSample) ran constant
  · exact subsample_constant (fun _ _ => rowIn_centreSample) ran constant

end Sys2Proof.Machine
end

section
/-! SUPPORT. The values of packed fields: a byte, three tens in a word and a sample shifted up to 16 bits (R178, R179,
R192). -/

namespace Sys2Proof.Machine

/-- A value in the unsigned range of its field stands there unchanged. -/
theorem toNat_ofInt_of_mem {n : Nat} {v : Int} (lo : 0 ≤ v) (hi : v < 2 ^ n) :
    ((BitVec.ofInt n v).toNat : Int) = v := by
  rw [BitVec.toNat_ofInt, Int.natCast_pow, Nat.cast_ofNat, Int.emod_eq_of_lt lo hi, Int.toNat_of_nonneg lo]

/-! ### The 10-bit word (R179) -/

theorem toNat_ofNat_of_lt {n x : Nat} (fits : x < 2 ^ n) : (BitVec.ofNat n x).toNat = x := by
  rw [BitVec.toNat_ofNat, Nat.mod_eq_of_lt fits]

theorem toNat_ofNat_shiftLeft {n x k : Nat} (fits : 2 ^ k * x < 2 ^ n) :
    (BitVec.ofNat n x <<< k).toNat = 2 ^ k * x := by
  have below : x < 2 ^ n := (Nat.le_mul_of_pos_left x (by positivity)).trans_lt fits
  rw [BitVec.toNat_shiftLeft, toNat_ofNat_of_lt below, Nat.shiftLeft_eq, Nat.mul_comm, Nat.mod_eq_of_lt fits]

/-- The three fields do not overlap, so that their union is their sum. -/
theorem w10_toNat {a b c : Nat} (ha : a < 2 ^ 10) (hb : b < 2 ^ 10) (hc : c < 2 ^ 10) :
    (w10 a b c).toNat = a + 2 ^ 10 * b + 2 ^ 20 * c := by
  simp only [w10, BitVec.ofInt_natCast]
  rw [BitVec.toNat_or, BitVec.toNat_or, toNat_ofNat_of_lt (by omega), toNat_ofNat_shiftLeft (by omega),
    toNat_ofNat_shiftLeft (by omega), Nat.or_comm a, ← Nat.two_pow_add_eq_or_of_lt ha, Nat.or_comm _ (2 ^ 20 * c),
    ← Nat.two_pow_add_eq_or_of_lt (by omega)]
  omega

/-- The high bits of a word below 2^30 are zero. -/
theorem extractLsb'_30_2_of_lt {w : Word} (h : w.toNat < 2 ^ 30) : w.extractLsb' 30 2 = 0 := by
  apply BitVec.eq_of_toNat_eq
  rw [BitVec.extractLsb'_toNat, Nat.shiftRight_eq_div_pow, Nat.div_eq_of_lt h]
  rfl

/-- Three values of 10 bits stand side by side in the word, bits 31:30 zero. -/
theorem w10_of_isTen {a b c : Int} (ha : isTen a) (hb : isTen b) (hc : isTen c) :
    ((w10 a b c).toNat : Int) = a + b * 2 ^ 10 + c * 2 ^ 20 ∧ (w10 a b c).extractLsb' 30 2 = 0 := by
  obtain ⟨a0, a1⟩ := ha
  obtain ⟨b0, b1⟩ := hb
  obtain ⟨c0, c1⟩ := hc
  lift a to ℕ using a0
  lift b to ℕ using b0
  lift c to ℕ using c0
  have sum : (w10 a b c).toNat = a + 2 ^ 10 * b + 2 ^ 20 * c := w10_toNat (by omega) (by omega) (by omega)
  exact ⟨by omega, extractLsb'_30_2_of_lt (by omega)⟩

/-! ### Samples shifted up to 16 bits (R178) -/

theorem mul_pow_lt_of_lt {v : Int} {m n k : Nat} (split : m + n = k) (lt : v < 2 ^ m) : v * 2 ^ n < 2 ^ k := by
  rw [← split, pow_add]
  exact mul_lt_mul_of_pos_right lt (by positivity)

theorem neg_pow_le_mul_pow {v : Int} {m n k : Nat} (split : m + n = k) (le : -(2 ^ m) ≤ v) :
    -(2 ^ k) ≤ v * 2 ^ n := by
  rw [← split, pow_add, ← neg_mul]
  exact mul_le_mul_of_nonneg_right le (by positivity)

theorem up16_toNat {w : Nat} {v : Int} (width : w ≤ 16) (lo : 0 ≤ v) (hi : v ≤ 2 ^ w - 1) :
    ((up16 w v).toNat : Int) = v * 2 ^ (16 - w) := by
  rw [up16, shl_eq]
  exact toNat_ofInt_of_mem (by positivity) (mul_pow_lt_of_lt (by omega) (by omega : v < 2 ^ w))

theorem up16_toInt {w : Nat} {v : Int} (pos : 1 ≤ w) (width : w ≤ 16) (lo : -(2 ^ (w - 1)) ≤ v)
    (hi : v ≤ 2 ^ (w - 1) - 1) : (up16 w v).toInt = v * 2 ^ (16 - w) := by
  rw [up16, shl_eq]
  exact BitVec.toInt_ofInt_eq_self (by decide) (neg_pow_le_mul_pow (by omega) lo)
    (mul_pow_lt_of_lt (by omega) (by omega : v < 2 ^ (w - 1)))

/-- Settles O48, field by field. -/
theorem packedFieldsHoldTheirValues : Obligations.PackedFieldsHoldTheirValues :=
  ⟨fun _ lo hi => toNat_ofInt_of_mem lo (by omega), fun _ _ _ => w10_of_isTen, fun _ _ => up16_toNat,
    fun _ _ => up16_toInt⟩

end Sys2Proof.Machine
end

section
/-! SUPPORT. The sequencing of the StripOrchestrator: the sequences of R228, the next slot, NOP, START, the two resets and
ADV (R211, R213, R216, R222, R226, R270). -/

namespace Sys2Proof.Machine

/-! ### Slots (R226, R228) -/

/-- Settles O5, by evaluating the decoder at the eight slots of each word. -/
theorem specWordsDisassemble : Obligations.SpecWordsDisassemble :=
  ⟨by decide, by decide, by decide, by decide⟩

/-- Settles O9: below slot 7, which is always filled, the walk has a slot to go on to. -/
theorem nextSlotIsTheSmallestFilled : Obligations.NextSlotIsTheSmallestFilled := fun scw _ below =>
  nextSlot_spec scw (BitVec.ne_of_lt below)

/-! ### NOP and START (R211, R213) -/

/-- Settles O11: the word 0 meets the first row of CMD, and NOP's arm returns the state it is given. -/
theorem nopChangesNothing : Obligations.NopChangesNothing :=
  ⟨(decode_cmd 0).trans (if_pos rfl), fun _ => rfl⟩

/-- A fault raised by a check stands at the strip's first position (R248). -/
theorem raiseFault_settled {s : State} (h : s.phase = .idle ∨ s.phase = .done) (c : FaultCode) (ch buf : BitVec 2) :
    raiseFault c ch buf s =
      { s with row := 0, stage := 0, phase := .fault, faultRec := ⟨faultByte c, ch, buf, 0⟩ } := by
  rw [raiseFault, (acceptsStart_iff _).2 h]
  rfl

theorem execStart_running {s : State} (h : s.phase = .busy ∨ s.phase = .fault) :
    execStart s = .next (setWrerr s) := by
  rw [execStart_eq, (not_acceptsStart_iff _).2 h]
  rfl

theorem execStart_violated {s : State} {v : Violation} (h : s.phase = .idle ∨ s.phase = .done)
    (failed : firstViolation s = some v) : execStart s = .next (raiseFault v.code v.ch v.buf s) := by
  rw [execStart_eq, (acceptsStart_iff _).2 h, failed]
  rfl

theorem execStart_checked {s : State} (h : s.phase = .idle ∨ s.phase = .done) (checked : firstViolation s = none) :
    execStart s = .next (beginStrip s) := by
  rw [execStart_eq, (acceptsStart_iff _).2 h, checked]
  rfl

/-- Settles O12, phase by phase; what a strip begins with is `beginStrip`. -/
theorem startFollowsItsRule : Obligations.StartFollowsItsRule := by
  intro s
  refine ⟨execStart_running, fun settled => ⟨fun v failed => ?_, fun checked => ?_⟩⟩
  · exact (execStart_violated settled failed).trans (congrArg _ (raiseFault_settled settled v.code v.ch v.buf))
  · exact ⟨beginStrip s, execStart_checked settled checked, rfl, fun empty => if_pos empty, fun rows => if_neg rows,
      sameMemories_of_eq rfl rfl⟩

/-! ### RESET and the hardware reset (R216, R270) -/

theorem outByte_abandonRow_idle {s : State} (idle : ¬(s.phase = .busy ∧ s.stage = 6)) (a : Word) :
    outByte (abandonRow s) a = outByte s a := by
  rw [outByte, (abandonRow_frame s).2 idle, outByte]

/-- Each byte of OUT after a reset is what it was, its packed value in the row that was cut, or a byte of that row which
the host has written too (U7, R275). -/
theorem outByte_abandonRow (s : State) (a : Word) :
    outByte (abandonRow s) a = outByte s a ∨
      ∃ i bytes, decode (.slot 6) s.scw = .ok i ∧ packedBytes i s = .ok bytes ∧
        (bytes[distance s.outPtr a]? = some (outByte (abandonRow s) a) ∨
          distance s.outPtr a < bytes.length ∧ a.toNat ∈ s.hostOut) := by
  obtain same | ⟨i, bytes, -, -, decoded, packed, cut⟩ := abandonRow_cases s
  · exact .inl (by rw [same])
  · have short : bytes.length ≤ 2 ^ 32 := packedBytes_length packed ▸ packedLength_le i s
    rw [cut]
    exact (outByte_writeRow _ s bytes short a).imp_right fun byte => ⟨i, bytes, decoded, packed, byte⟩

/-- Every register is at its reset value; what the reset leaves is as it was before the row was cut (R56, R57). -/
theorem resetRegisters_abandonRow (s : State) :
    resetRegisters (abandonRow s) = { State.reset with
      coef := s.coef, out := (abandonRow s).out, bus := s.bus, inputs := s.inputs, rdata := s.rdata,
      overwritten := s.overwritten, hostOut := s.hostOut, freeCount := (abandonRow s).freeCount, params := s.params } := by
  rw [(abandonRow_frame s).1]
  rfl

/-- Settles O14: RESET and the hardware reset end in the one state `resetRegisters_abandonRow` writes out. -/
theorem resetRestoresTheResetState : Obligations.ResetRestoresTheResetState := by
  intro s rest after
  have reset : ∀ u, after u (resetRegisters (abandonRow u)) := fun u => by
    refine ⟨?_, fun a => ?_, outByte_abandonRow_idle, outByte_abandonRow u⟩
    · rw [resetRegisters_abandonRow]
    · rw [resetRegisters_abandonRow]; rfl
  exact ⟨⟨_, rfl, reset s⟩, fun head => ⟨_, step_hardReset head, reset _⟩⟩

/-! ### ADV (R222) -/

theorem inUse_iff (s : State) (ch : Fin 4) : inUse s ch = true ↔ ch.val < 3 ∨ s.scw.getLsbD 11 = true := by
  have all := ch.isLt
  rw [inUse, decide_eq_true_eq, channelCount, show scwAlpha s.scw = s.scw.getLsbD 11 from rfl]
  split <;> simp_all

/-- Settles O52: the pointers are `advancePointers`, read channel by channel. -/
theorem advanceFollowsItsRule : Obligations.AdvanceFollowsItsRule := by
  refine ⟨decode_slot7, fun s => ⟨_, rfl, rfl, sameMemories_of_eq rfl rfl, fun ch => ?_⟩⟩
  simp only [advancePointers_get, inUse_iff, and_self]

end Sys2Proof.Machine
end

section
/-! SUPPORT. The start-time checks on the bits of the registers, and their order (R214). -/

namespace Sys2Proof.Machine

/-! ### A check and the ones after it -/

/-- A check fails first when its condition does not hold, and else the later ones decide. -/
theorem require_or {ok : Bool} {bad : Prop} [Decidable bad] {v : Violation} {rest later : Option Violation}
    (legal : ok = true ↔ ¬bad) (passed : ok = true → rest = later) :
    (require ok v).or rest = if bad then some v else later := by
  by_cases h : bad
  · have failed : ok = false := by simpa [h] using legal
    rw [failed, if_pos h]
    rfl
  · have held : ok = true := legal.2 h
    rw [held, if_neg h, ← passed held]
    rfl

/-- The last check. -/
theorem require_last {ok : Bool} {bad : Prop} [Decidable bad] {v : Violation} (legal : ok = true ↔ ¬bad) :
    require ok v = if bad then some v else none := by
  rw [← require_or legal fun _ => rfl, Option.or_none]

/-! ### The format's checks (R97 to R101) -/

theorem formatOf_formatCode (f : Format) : formatOf (formatCode f) = some f := by cases f <;> rfl

theorem format_eq_iff (s : State) (f : Format) :
    format s = some f ↔ (s.scw.extractLsb' 16 8).toNat = (formatCode f).toNat := by
  rw [← BitVec.toNat_eq]
  exact ⟨eq_formatCode, fun code => by rw [format, scwFormat, code, formatOf_formatCode]⟩

theorem format_isSome_iff (s : State) : (format s).isSome = true ↔
    ¬(s.scw.extractLsb' 16 8).toNat ∉ [0x10, 0x11, 0x12, 0x20, 0x21, 0x50, 0x80, 0x81, 0x82, 0x83, 0x84, 0x90] := by
  have codes : ∀ c : BitVec 8, (formatOf c).isSome = true ↔
      ¬c.toNat ∉ [0x10, 0x11, 0x12, 0x20, 0x21, 0x50, 0x80, 0x81, 0x82, 0x83, 0x84, 0x90] := by decide
  exact codes (scwFormat s.scw)

section
variable {s : State} {f : Format} (named : format s = some f)
include named

theorem widthAligned_iff (n : Nat) :
    widthAligned f n = true ↔ ¬((s.scw.extractLsb' 16 8).toNat = 0x12 ∧ n % 3 ≠ 0) := by
  rw [(format_eq_iff s f).1 named]
  cases f <;> simp [widthAligned, formatCode]

/-- Only P16 and B64A take more than one depth, the three that check 4 leaves (R39, R101). -/
theorem depthLegal_iff (depth : pOut s = 8 ∨ pOut s = 10 ∨ pOut s = 16) : depthLegal f (pOut s) = true ↔
    ¬(((s.scw.extractLsb' 16 8).toNat ∈ [0x10, 0x11, 0x20, 0x21] ∧ (s.prec.extractLsb' 8 5).toNat ≠ 8) ∨
      ((s.scw.extractLsb' 16 8).toNat ∈ [0x12, 0x80, 0x81, 0x82, 0x83, 0x84] ∧
        (s.prec.extractLsb' 8 5).toNat ≠ 10)) := by
  rw [(format_eq_iff s f).1 named, ← pOut]
  cases f <;> simp [depthLegal, formatCode]
  all_goals omega

theorem rowBytes_eq : rowBytes f s =
    if (s.scw.extractLsb' 16 8).toNat = 0x10 ∨ (s.scw.extractLsb' 16 8).toNat = 0x11 then 4 * coefCount s
    else if (s.scw.extractLsb' 16 8).toNat = 0x12 then 2 * coefCount s / 6 * 16
    else if (s.scw.extractLsb' 16 8).toNat = 0x90 then 16 * coefCount s
    else if (s.scw.extractLsb' 16 8).toNat = 0x50 then
      2 * (2 * coefCount s + 2 * (2 * chanCount s 1) + if s.scw.getLsbD 11 then 2 * coefCount s else 0)
    else 8 * coefCount s := by
  rw [(format_eq_iff s f).1 named]
  cases f <;> simp [rowBytes, rowWidth, formatCode, scwAlpha, wordBit]
  all_goals omega

/-- With a format the checks of R214 are the conditions 3 to 9, with two for each channel in check 8. -/
theorem firstViolation_of_format : firstViolation s =
    (checkRoi s).or ((checkFields s).or ((checkShape s).or
      ((require (widthAligned f (coefCount s)) ⟨.cvAlign, 0, 0⟩).or
        ((require (depthLegal f (pOut s)) ⟨.pmDepth, 0, 0⟩).or
          ((checkChannelPitch s 0).or ((checkChannelPitch s 1).or ((checkChannelPitch s 2).or ((checkChannelPitch s 3).or
            (require (decide (rowBytes f s ≤ s.outPitch.toNat)) ⟨.cvPitch, 0, bufOut⟩))))))))) := by
  simp only [firstViolation, checkFormat, checkAlign, checkDepth, checkOutPitch, checkPitches, named, Option.or_assoc]
  rfl

end

theorem firstViolation_of_no_format {s : State} (unnamed : format s = none) :
    firstViolation s = some ⟨.cvFormat, 0, 0⟩ := by
  rw [firstViolation, checkFormat, unnamed]
  rfl

/-! ### The other checks on the registers' bits -/

theorem roiLegal_iff (s : State) : roiLegal s = true ↔
    ¬(coefCount s < 3 ∨ s.params.maxN < coefCount s ∨
      (s.scw.getLsbD 10 = true ∧ (coefCount s % 2 = 1 ∨ coefCount s < 6))) := by
  simp only [roiLegal, scwSrc422, wordBit, Bool.and_eq_true, Bool.or_eq_true, Bool.not_eq_true', decide_eq_true_eq,
    beq_iff_eq]
  cases s.scw.getLsbD 10
  · simp
  · simp
    omega

theorem scwFieldsLegal_iff (s : State) : scwFieldsLegal s = true ↔
    ¬(s.scw.extractLsb' 24 8 ≠ 0 ∨ s.scw.extractLsb' 0 2 = 3 ∨
      (s.scw.extractLsb' 0 2 = 1 ∧ s.scw.extractLsb' 4 4 = 0) ∨
      (s.scw.getLsbD 15 = true ∧
        ¬((s.scw.extractLsb' 16 8).toNat = 0x50 ∧ s.scw.getLsbD 9 = false ∧ s.scw.getLsbD 11 = false))) := by
  have p16 : format s = some .p16 ↔ (s.scw.extractLsb' 16 8).toNat = 0x50 := format_eq_iff s .p16
  simp only [scwFieldsLegal, p16, Bool.and_eq_true, Bool.or_eq_true, Bool.not_eq_true', decide_eq_true_eq]
  simp only [scwReserved, scwSynmode, scwLimbits, scwOutsign, scwSrc, scwAlpha, wordBit, not_or, not_not, not_and_or,
    Bool.not_eq_true, and_assoc, ne_eq]

theorem precLegal_iff (s : State) : precLegal s = true ↔
    ¬((s.prec.extractLsb' 0 5).toNat < 8 ∨ 16 < (s.prec.extractLsb' 0 5).toNat ∨
      (s.prec.extractLsb' 8 5).toNat ∉ [8, 10, 16] ∨ s.prec.extractLsb' 5 3 ≠ 0 ∨ s.prec.extractLsb' 13 19 ≠ 0) := by
  simp only [precLegal, Bool.and_eq_true, Bool.or_eq_true, decide_eq_true_eq, beq_iff_eq]
  simp only [pInt, pOut, List.mem_cons, List.not_mem_nil, or_false, not_or, not_and_or, not_not, not_lt, ne_eq,
    and_assoc, or_assoc]

theorem colorRegistersLegal_iff (s : State) : colorRegistersLegal s = true ↔
    ¬((s.scw.getLsbD 9 = true ∧ s.diffoff.extractLsb' 18 14 ≠ 0) ∨
      (s.scw.getLsbD 11 = true ∧ (s.alphaDc.extractLsb' 16 16 ≠ 0 ∨ s.alphaGain.extractLsb' 16 16 ≠ 0 ∨
        s.alphaScale.extractLsb' 5 27 ≠ 0))) := by
  simp only [colorRegistersLegal, scwSrc, scwAlpha, wordBit, Bool.and_eq_true, Bool.or_eq_true, Bool.not_eq_true',
    decide_eq_true_eq, not_or, not_and_or, not_not, Bool.not_eq_true, and_assoc, ne_eq]

/-- The three parts of check 4. -/
theorem fieldsLegal_iff (s : State) : (scwFieldsLegal s && precLegal s && colorRegistersLegal s) = true ↔
    ¬(s.scw.extractLsb' 24 8 ≠ 0 ∨ s.scw.extractLsb' 0 2 = 3 ∨
      (s.scw.extractLsb' 0 2 = 1 ∧ s.scw.extractLsb' 4 4 = 0) ∨
      (s.scw.getLsbD 15 = true ∧
        ¬((s.scw.extractLsb' 16 8).toNat = 0x50 ∧ s.scw.getLsbD 9 = false ∧ s.scw.getLsbD 11 = false)) ∨
      (s.prec.extractLsb' 0 5).toNat < 8 ∨ 16 < (s.prec.extractLsb' 0 5).toNat ∨
      (s.prec.extractLsb' 8 5).toNat ∉ [8, 10, 16] ∨ s.prec.extractLsb' 5 3 ≠ 0 ∨ s.prec.extractLsb' 13 19 ≠ 0 ∨
      (s.scw.getLsbD 9 = true ∧ s.diffoff.extractLsb' 18 14 ≠ 0) ∨
      (s.scw.getLsbD 11 = true ∧ (s.alphaDc.extractLsb' 16 16 ≠ 0 ∨ s.alphaGain.extractLsb' 16 16 ≠ 0 ∨
        s.alphaScale.extractLsb' 5 27 ≠ 0))) := by
  rw [Bool.and_eq_true, Bool.and_eq_true, scwFieldsLegal_iff, precLegal_iff, colorRegistersLegal_iff, ← not_or,
    ← not_or]
  simp only [or_assoc]

theorem depth_of_precLegal {s : State} (h : precLegal s = true) : pOut s = 8 ∨ pOut s = 10 ∨ pOut s = 16 := by
  simp only [precLegal, Bool.and_eq_true, Bool.or_eq_true, decide_eq_true_eq, beq_iff_eq] at h
  omega

theorem shapeLegal_iff (s : State) : shapeLegal s = true ↔
    ¬((s.scw.getLsbD 9 = true ∧ s.scw.getLsbD 10 = true) ∨ (s.scw.getLsbD 23 = true ∧ s.scw.getLsbD 9 = false) ∨
      (s.scw.getLsbD 10 = true ∧
        ((s.scw.extractLsb' 16 8).toNat = 0x20 ∨ (s.scw.extractLsb' 16 8).toNat = 0x21))) := by
  have v408 : format s = some .v408 ↔ (s.scw.extractLsb' 16 8).toNat = 0x20 := format_eq_iff s .v408
  have ayuv : format s = some .ayuv ↔ (s.scw.extractLsb' 16 8).toNat = 0x21 := format_eq_iff s .ayuv
  simp only [shapeLegal, v408, ayuv, scwSrc, scwSrc422, scwIsRgb, wordBit, Bool.and_eq_true, Bool.or_eq_true,
    Bool.not_eq_true', decide_eq_true_eq, ← Bool.not_eq_true, not_or, and_assoc]

/-! ### The pitches (R214 checks 8 and 9) -/

theorem chanCount_eq (s : State) (ch : Fin 4) : chanCount s ch =
    if s.scw.getLsbD 10 = true ∧ (ch = 1 ∨ ch = 2) then coefCount s / 2 else coefCount s := by
  simp only [chanCount, scwSrc422, wordBit, Bool.and_eq_true, Bool.or_eq_true, decide_eq_true_eq]

theorem pitchLegal_iff (s : State) (ch : Fin 4) (pitch : Word) :
    (!inUse s ch || decide (chanCount s ch ≤ pitch.toNat)) = true ↔
      ¬(decide (ch.val < 3 ∨ s.scw.getLsbD 11 = true) && decide (pitch.toNat <
        if s.scw.getLsbD 10 = true ∧ (ch = 1 ∨ ch = 2) then coefCount s / 2 else coefCount s)) = true := by
  rw [← chanCount_eq, Bool.or_eq_true, Bool.not_eq_true', ← Bool.not_eq_true, inUse_iff, Bool.and_eq_true,
    decide_eq_true_eq, decide_eq_true_eq, decide_eq_true_eq, not_and_or, not_lt]

/-- Check 8 of one channel with what comes after it: the lowpass pitch first. -/
theorem checkChannelPitch_or {s : State} {ch : Fin 4} {lowShort highShort : Prop} [Decidable lowShort]
    [Decidable highShort] {rest later : Option Violation}
    (low : (!inUse s ch || decide (chanCount s ch ≤ (s.lpPitch.get ch).toNat)) = true ↔ ¬lowShort)
    (high : (!inUse s ch || decide (chanCount s ch ≤ (s.hpPitch.get ch).toNat)) = true ↔ ¬highShort)
    (passed : rest = later) :
    (checkChannelPitch s ch).or rest =
      if lowShort then some ⟨.cvPitch, BitVec.ofFin ch, bufLow⟩
      else if highShort then some ⟨.cvPitch, BitVec.ofFin ch, bufHigh⟩ else later := by
  rw [checkChannelPitch, Option.or_assoc]
  exact require_or low fun _ => require_or high fun _ => passed

/-- Settles O13, check by check in the order of R214; that the depth is one of three when check 7 is reached is what
check 4 has left. -/
theorem startChecksAreMadeInOrder : Obligations.StartChecksAreMadeInOrder := by
  intro s fmt n src src422 alpha pint pout nc pitchFails highFails rowbytes
  cases named : format s with
  | none =>
    rw [firstViolation_of_no_format named, if_pos]
    exact fun code => by simpa [named] using (format_isSome_iff s).2 (not_not.2 code)
  | some f =>
    have rowbytes_eq : rowBytes f s = rowbytes := (rowBytes_eq named).trans (by rw [chanCount_eq]; rfl)
    have code := (format_isSome_iff s).1 (by rw [named]; rfl)
    rw [firstViolation_of_format named, if_neg code]
    refine require_or (roiLegal_iff s) fun _ => require_or (fieldsLegal_iff s) fun fields =>
      require_or (shapeLegal_iff s) fun _ => require_or (widthAligned_iff named n) fun _ =>
      require_or (depthLegal_iff named ?depth) fun _ => ?pitches
    case depth =>
      rw [Bool.and_eq_true, Bool.and_eq_true] at fields
      obtain ⟨⟨-, prec⟩, -⟩ := fields
      exact depth_of_precLegal prec
    case pitches =>
      have low (ch : Fin 4) := pitchLegal_iff s ch (s.lpPitch.get ch)
      have high (ch : Fin 4) := pitchLegal_iff s ch (s.hpPitch.get ch)
      refine checkChannelPitch_or (low 0) (high 0) <| checkChannelPitch_or (low 1) (high 1) <|
        checkChannelPitch_or (low 2) (high 2) <| checkChannelPitch_or (low 3) (high 3) <| require_last ?_
      rw [rowbytes_eq, decide_eq_true_eq, not_lt]

end Sys2Proof.Machine
end

section
/-! SUPPORT. CV_BUS, raised by a failing coefficient read or output write (R246, R248), and the phases in which the
block rests: FAULT until a reset (R250), and what WAIT does in each (R106, R258). -/

namespace Sys2Proof.Machine

/-! ### A failing coefficient read (R246) -/

/-- While BUSY the position stays, and the record names the operation's row (R248). -/
theorem raiseFault_busy {s : State} (busy : s.phase = .busy) (c : FaultCode) (ch buf : BitVec 2) :
    raiseFault c ch buf s = { s with phase := .fault, faultRec := ⟨faultByte c, ch, buf, s.row⟩ } := by
  rw [raiseFault, busy]
  rfl

/-- The access that CV_BUS names is one of the failing ones, whichever the free value chooses (U15). -/
theorem raiseReadFault_busy {s : State} (busy : s.phase = .busy) {fails : List (BitVec 2 × BitVec 2)}
    (some_fails : fails ≠ []) : ∃ e ∈ fails, raiseReadFault fails s =
      { s with phase := .fault, faultRec := ⟨0x17, e.1, e.2, s.row⟩, freeCount := s.freeCount + 1 } :=
  ⟨_, chosen_mem fails (Config.busReport s.freeCount) (0, 0) some_fails, raiseFault_busy (s := useFree s) busy _ _ _⟩

theorem synthesize_narrow (finish : Int → Int) {s : State}
    (narrow : ∃ ch, inUse s ch = true ∧ 0 < chanCount s ch ∧ chanCount s ch < 3) :
    synthesize finish s = .fault .narrowRow := by
  rw [synthesize_eq, if_pos ((narrowChannel_iff s).2 narrow)]

theorem synthesize_unanswered (finish : Int → Int) {s : State} (wide : ChannelsWide s)
    (unanswered : ¬ReadsAnswered s) : synthesize finish s = .next (raiseReadFault (failingReads s) s) := by
  rw [synthesize_eq, narrowChannel_of_wide wide, if_neg Bool.false_ne_true,
    if_neg (mt (failingReads_nil_iff s).1 unanswered)]

/-- Settles O30: every SYN operation is `synthesize`, and the access CV_BUS names is an entry of `failingReads`. -/
theorem synBusErrorRaisesCvBus : Obligations.SynBusErrorRaisesCvBus := by
  intro i s hk busy
  obtain ⟨finish, syn⟩ := exec_syn hk
  rw [syn]
  refine ⟨fun wide unanswered => ?_, synthesize_narrow finish⟩
  obtain ⟨⟨_, buf⟩, failing, raised⟩ := raiseReadFault_busy busy (mt (failingReads_nil_iff s).1 unanswered)
  obtain ⟨ch, used, rfl, buffer⟩ := (mem_failingReads s _).1 failing
  refine ⟨_, ch, buf, synthesize_unanswered finish wide unanswered, ?_, sameMemories_of_eq rfl rfl, used, buffer⟩
  rw [raised]

/-! ### A failing output write (R246, U7) -/

theorem storeRow_unanswered {bytes : List Byte} {s : State} (h : ¬WritesAnswered s bytes.length) :
    storeRow (.ok bytes) s = .next (raiseFault .cvBus 0 bufOut (writePartly bytes s)) := by
  have failing : anyWriteFails s bytes.length = true := by
    rwa [← Bool.not_eq_false, anyWriteFails_iff]
  rw [storeRow]
  exact if_pos failing

/-- Settles O50: the fault is raised over the row partly written, each byte of which is its packed or its old value. -/
theorem packBusErrorRaisesCvBus : Obligations.PackBusErrorRaisesCvBus := by
  intro i s bytes hk busy packed unanswered
  have short : bytes.length ≤ 2 ^ 32 := packedBytes_length packed ▸ packedLength_le i s
  refine ⟨raiseFault .cvBus 0 bufOut (writePartly bytes s), ?_, ?_, sameOutsideRow_writeRow _ s bytes short,
    fun a alone => ?_⟩
  · rw [exec_pack hk, packed, storeRow_unanswered unanswered]
  · exact raiseFault_busy (s := writePartly bytes s) busy _ _ _
  · obtain old | new | ⟨-, contested⟩ := outByte_writeRow (Config.byteLanded s.freeCount) s bytes short a
    · exact .inl old
    · exact .inr new
    · exact absurd contested alone

/-! ### FAULT (R250) -/

/-- Settles O55: in FAULT no strip begins, no check is made and no operation runs; what else a step does that is no
reset writes neither the record, the position nor a pointer. -/
theorem faultSticksUntilReset : Obligations.FaultSticksUntilReset := by
  intro s t fault h not_hard not_reset
  have not_settled : ¬(s.phase = .idle ∨ s.phase = .done) := by rw [fault]; decide
  obtain ⟨rest, c⟩ := step_cases h
  cases c with
  | quiet after => rw [after]; exact ⟨fault, rfl, rfl, rfl, rfl, rfl, rfl⟩
  | ignored _ _ _ _ after => rw [after]; exact ⟨fault, rfl, rfl, rfl, rfl, rfl, rfl⟩
  | stored r w _ _ after => rw [after]; simpa using fault
  | reset head _ => exact (head.elim not_hard not_reset).elim
  | began _ settled _ _ => exact absurd settled not_settled
  | rejected _ settled _ _ _ => exact absurd settled not_settled
  | invalid _ _ _ settled _ => exact absurd settled not_settled
  | stage busy _ => rw [fault] at busy; cases busy

/-! ### IDLE, DONE and FAULT are quiescent, and WAIT (R106, R258) -/

theorem orchestrate_quiescent {s : State} (h : s.phase ≠ .busy) : orchestrate s = .next s := if_neg h

/-- No stage operation touches the queue of outside actions. -/
theorem orchestrate_inputs {s t : State} (h : orchestrate s = .next t) : t.inputs = s.inputs := by
  obtain ⟨busy, ran⟩ | ⟨-, rfl⟩ := orchestrate_next h
  · obtain ⟨block, -⟩ := (stageStep_cases busy ran).frame
    obtain ⟨-, -, -, inputs, -⟩ := block.outside
    exact inputs
  · rfl

theorem step_wait {s : State} {rest : List Input} (h : s.inputs = .wait :: rest) :
    step s = waitStep s { s with inputs := rest } := by
  rw [step, takeStep, h]

theorem waitStep_ended {s : State} (h : s.phase = .done ∨ s.phase = .fault) (rest : State) :
    waitStep s rest = .next { rest with rdata := statusWord s } := if_pos h

theorem waitStep_pending {s : State} (h : s.phase = .idle ∨ s.phase = .busy) (rest : State) :
    waitStep s rest = orchestrate s := by
  apply if_neg
  obtain h | h := h <;> rw [h] <;> decide

/-- Settles O10: a step with nothing from outside is the orchestrator's, which rests outside BUSY and never touches the
queue; a pending WAIT is the orchestrator's step too until STATUS reads DONE or FAULT. -/
theorem orchestratorIsQuiescentOutsideBusy : Obligations.OrchestratorIsQuiescentOutsideBusy := by
  refine ⟨fun s settled empty => ?_, fun s rest settled head => ?_, fun s rest head => ?_⟩
  · rw [step_orchestrate (.inl ⟨empty, rfl⟩), orchestrate_quiescent settled]
  · rw [step_orchestrate (.inr ⟨rest, head, rfl⟩)]
    exact orchestrate_quiescent settled
  · rw [step_wait head]
    refine ⟨fun ended => waitStep_ended ended _, fun idle => ?_, fun busy t ran => ?_⟩
    · rw [waitStep_pending (.inl idle), orchestrate_quiescent (by rw [idle]; nofun)]
    · rw [waitStep_pending (.inr busy)] at ran
      exact orchestrate_inputs ran

end Sys2Proof.Machine
end
